-- ==== Sys2Proof/Word.lean ====
section
/-! DEFINITION. The word types of the hardware `pulse_osc_a` and its sample value domain.
Rules: R8 (value domain V), R70 (step word), R71 (command word), R75 (response value). -/

namespace Sys2Proof

/-- A step word: 16 bits, unsigned, bit `i` is slot `i` (R70). -/
abbrev StepWord := BitVec 16

/-- A command word: 64 bits, one length and one format (R71, R80). -/
abbrev CmdWord := BitVec 64

/-- The 32-bit `value` of every response but that of a sample (R75). -/
abbrev RespWord := BitVec 32

/-- The value domain **V** of all sample arithmetic: the exact rational numbers (R8). DEDUCED, unsafe for a
floating-point engine at thresholds, log entry 19. -/
abbrev V := Rat

end Sys2Proof
end

