-- ==== Sys2Proof/Config.lean ====
section
/-! DEFINITION. What the spec leaves OPEN (R7), and the free values. Every constant here is `opaque` with no body:
nothing in Lean can see its value, so whatever is proved holds for every value its type allows.
The constants the document FIXES (R6), and the parameters the spec decides (`LMAX`, `HWFREQ_FLOOR`, `TRI_FREQ_DIV`, `rnd`),
are in `Sys2Proof/Machine/Constants.lean`. -/

namespace Sys2Proof.Config

/-! ### Parameters fixed when the hardware is built (R7, R201 item 4) -/

/-- `NSLOTS - 12`: the number of note slots is OPEN, an integer with `12 <= NSLOTS <= 16` (R7, D5).
DESIGN CHOICE, safe, log entry 6. -/
opaque nslotsAbove12 : Fin 5

/-- `NOTE_BASE[ch]`, ch = 0..3: OPEN, a non-negative integer (U6 refuses a negative one) with
`NOTE_BASE[ch] + 15 < 2^31` (R14). DESIGN CHOICE, safe, log entry 6. -/
opaque noteBase : Fin 4 → Fin 2147483633

/-- `PERIOD[1..79]`: OPEN, non-negative integers (R28, R113). The argument is the table index. DESIGN CHOICE, safe,
log entry 6. -/
opaque periodOpen : Nat → Nat

/-- A candidate for `etFreq(69 + j)`, `j = 1..11`: the equal-tempered frequencies that no rational number gives exactly
are OPEN up to the laws of R111. `Machine.etFreq` uses a candidate only where it meets law (e). DESIGN CHOICE, unsafe
through law (e) only, log entry 7. -/
opaque etCandidate : Nat → V

/-! ### Free values: any value, a fresh one for every index (a counter in `State`) -/

/-- The `k`-th free draw of the noise unit, any integer 0..15 (R30, R127, U2). DESIGN CHOICE, log entry 4: safe for
a claim about one run, unsafe for one that compares two runs, which get the same draws. -/
opaque draw : Nat → Fin 16

/-- `TEMPO` after the RESET numbered `k`: unspecified, any 16-bit value (R32, U1). DESIGN CHOICE, safe, log entry 5,
for this and the five that follow. -/
opaque resetTempo : Nat → BitVec 16

/-- `VOLUME` after a RESET: unspecified, any value 0..100 (R32, U1). -/
opaque resetVolume : Nat → Fin 101

/-- `MODE` after a RESET: unspecified, any 2-bit value (R32, U1). -/
opaque resetMode : Nat → BitVec 2

/-- `S_TEMPO` after a RESET: unspecified (R32). -/
opaque resetSTempo : Nat → BitVec 16

/-- `S_VOLUME` after a RESET: unspecified (R32), of the same range as its live counterpart (R20). -/
opaque resetSVolume : Nat → Fin 101

/-- `S_MODE` after a RESET: unspecified (R32). -/
opaque resetSMode : Nat → BitVec 2

/-- `clamp(x, lo, hi)` with `lo > hi`: "Defined only for `lo <= hi`" (R11). Arguments `x`, `lo`, `hi`. DESIGN CHOICE, safe, log
entry 8. -/
opaque clampOpen : Int → Int → Int → Int

end Sys2Proof.Config
end

