-- ==== Sys2Proof/Syntax.lean ====
section
/-! DEFINITION. The operations of the hardware as data: one constructor per row of `spec/opcode_table.json`:
the 15 command words (R73), the 15 datapath stages of TICK (R74) and the RESET event (R200). -/

namespace Sys2Proof

/-- The four channels with their fixed roles, numbered 0, 1, 2, 3 in this order (R50, D40). -/
inductive Channel where
  | pulseA | pulseB | triangle | noise
  deriving DecidableEq, Repr

/-- The channel's number (R50). -/
def Channel.num : Channel → Fin 4
  | .pulseA => 0
  | .pulseB => 1
  | .triangle => 2
  | .noise => 3

/-- The channel a 2-bit `ch` field names (R71). -/
def Channel.ofBits (b : BitVec 2) : Channel :=
  if b = 0#2 then .pulseA else if b = 1#2 then .pulseB else if b = 2#2 then .triangle else .noise

/-- The 2-bit `ch` field that names a channel (R71). -/
def Channel.bits : Channel → BitVec 2
  | .pulseA => 0#2
  | .pulseB => 1#2
  | .triangle => 2#2
  | .noise => 3#2

/-- One operation: a command with its operand fields (R71, R72), a datapath stage (R74) or the RESET event. -/
inductive Instr where
  /-- `SELECT ch, step, slot` (R90) -/
  | select (ch : Channel) (step : BitVec 16) (slot : BitVec 4)
  /-- `ISSEL ch, step, slot` (R91) -/
  | isSel (ch : Channel) (step : BitVec 16) (slot : BitVec 4)
  /-- `NOTEIDX ch, step` (R92) -/
  | noteIdx (ch : Channel) (step : BitVec 16)
  /-- `GROW cnt` (R94) -/
  | grow (cnt : BitVec 16)
  /-- `SHRINK cnt` (R95) -/
  | shrink (cnt : BitVec 16)
  /-- `GETLEN` (R96) -/
  | getLen
  /-- `NEWTRACK` (R97) -/
  | newTrack
  /-- `WRSTEP ch, step, mask` (R98) -/
  | wrStep (ch : Channel) (step : BitVec 16) (mask : BitVec 16)
  /-- `RDSTEP ch, step` (R99) -/
  | rdStep (ch : Channel) (step : BitVec 16)
  /-- `SETTEMPO bpm` (R160) -/
  | setTempo (bpm : BitVec 16)
  /-- `SETVOL vol` (R161) -/
  | setVol (vol : BitVec 7)
  /-- `SETMODE mode` (R162) -/
  | setMode (mode : BitVec 2)
  /-- `PLAY` (R163) -/
  | play
  /-- `STOP` (R164) -/
  | stop
  /-- `TICK` (R165) -/
  | tick
  /-- stage `STEPIDX` (R120) -/
  | stepIdx
  /-- stage `NOTE ch` (R121), executed for ch = 0..3 -/
  | note (ch : Channel)
  /-- stage `FREQ.HW` (R112) for the note of channel `ch`, ch = 0..2 -/
  | freqHw (ch : Channel)
  /-- stage `FREQ.ET` (R110) for the note of channel `ch`, ch = 0..2 -/
  | freqEt (ch : Channel)
  /-- stage `PULSE.A` (R124) -/
  | pulseA
  /-- stage `PULSE.B` (R125) -/
  | pulseB
  /-- stage `TRI` (R126) -/
  | tri
  /-- stage `NOISE` (R127) -/
  | noise
  /-- stage `MIX.PULSE` (R140) -/
  | mixPulse
  /-- stage `MIX.TND` (R141) -/
  | mixTnd
  /-- stage `MIX.SUM` (R142) -/
  | mixSum
  /-- stage `HPF.A` (R145) -/
  | hpfA
  /-- stage `HPF.B` (R146) -/
  | hpfB
  /-- stage `LPF` (R147) -/
  | lpf
  /-- stage `GAIN` (R166) -/
  | gain
  /-- the event `RESET` (R200) -/
  | reset
  deriving DecidableEq, Repr

/-- The operations that a command word encodes: the 15 rows of R73. -/
def Instr.isCommand : Instr → Bool
  | .select _ _ _ | .isSel _ _ _ | .noteIdx _ _ | .grow _ | .shrink _ | .getLen | .newTrack | .wrStep _ _ _ | .rdStep _ _
  | .setTempo _ | .setVol _ | .setMode _ | .play | .stop | .tick => true
  | .stepIdx | .note _ | .freqHw _ | .freqEt _ | .pulseA | .pulseB | .tri | .noise | .mixPulse | .mixTnd | .mixSum
  | .hpfA | .hpfB | .lpf | .gain | .reset => false

/-- The datapath stages: the rows of R74. "They are not decoded from any word". -/
def Instr.isStage : Instr → Bool
  | .stepIdx | .note _ | .freqHw _ | .freqEt _ | .pulseA | .pulseB | .tri | .noise | .mixPulse | .mixTnd | .mixSum
  | .hpfA | .hpfB | .lpf | .gain => true
  | .select _ _ _ | .isSel _ _ _ | .noteIdx _ _ | .grow _ | .shrink _ | .getLen | .newTrack | .wrStep _ _ _ | .rdStep _ _
  | .setTempo _ | .setVol _ | .setMode _ | .play | .stop | .tick | .reset => false

end Sys2Proof
end

