-- ==== Sys2Proof/Machine/State.lean ====
section
/-! DEFINITION. The whole state of the hardware as plain data (R20 to R33, R50), the model's own fields beside it, the reasons
a step can stop, and the state after RESET (R32, R200). -/

namespace Sys2Proof.Machine

/-- A fault of the machine: the hardware itself has none (R187). -/
inductive Fault where
  /-- Raised by the stage `NOTE`, and so by TICK, when the step index names no word of the snapshot: an address
  `(ch, i)` "names a word ... of `snap` iff `i < S_LEN`" (R50). "The engine's own reads cannot be out of range" (R53), so it
  is met only in states that no run reaches. DESIGN CHOICE, safe, log entry 9. -/
  | noSuchStep
  deriving DecidableEq, Repr

/-- A refusal: the model gives the operation no meaning. -/
inductive Refusal where
  /-- Answered by the arm of an instruction that has no meaning yet. Safe. -/
  | notModelled (mnemonic : String)
  /-- Answered by the stage `TRI`, and so by TICK, in the legacy triangle mode with a negative index: "legacy with k < 0: not
  defined by the document" (R126), "A model refuses a TICK that reaches this case" (R126, U3). DEDUCED, safe, log
  entry 10. -/
  | legacyTriangleNegativeIndex
  deriving DecidableEq, Repr

/-- One value for each of the four channels. -/
structure PerChannel (α : Type) where
  pulseA : α
  pulseB : α
  triangle : α
  noise : α
  deriving DecidableEq, Repr

/-- One listed step word: its flat address `ch * 65536 + i` (R50) and the word. -/
abbrev StepCell := Nat × StepWord

/-- A memory of step words (R29): its length, which "serves all four channels", and the words that are not zero, by flat address.
A word within the length that is not listed reads as 0 (R32, R94; DEDUCED, safe, log entry 11). The unit of addressing is one step word (R50, R52). -/
structure Memory where
  len : Nat
  cells : List StepCell
  deriving DecidableEq, Repr

/-- The playback controller's state (R23). -/
inductive RunState where
  | idle
  | playing
  deriving DecidableEq, Repr

/-- The two registers of one filter (R26). -/
structure Filter where
  prevIn : V
  prevOut : V
  deriving DecidableEq, Repr

/-- What a triangle or noise unit puts out: exactly 0 (silence), or an entry of the level table (R122, R129). -/
inductive GenOut where
  | silent
  | level (k : Fin 16)
  deriving DecidableEq, Repr

/-- The values one TICK computes on its way from stage to stage (R74, R33). MODEL's own: "computed afresh in every TICK ... and
not kept" (R33), so every operation but a stage executed on its own leaves it at `Datapath.cleared`. -/
structure Datapath where
  /-- the step index `s` of R120 -/
  step : Int
  /-- `note[ch]` of R121 -/
  note : PerChannel Int
  /-- `freq[ch]` of R122; the noise channel's is never used (R116) -/
  freq : PerChannel V
  /-- output of PULSE.A (R124) -/
  p1 : Fin 2
  /-- output of PULSE.B (R125) -/
  p2 : Fin 2
  /-- output of TRI (R126) -/
  t : GenOut
  /-- output of NOISE (R127) -/
  nz : GenOut
  pulseOut : V
  tndOut : V
  mixed : V
  y1 : V
  y2 : V
  y3 : V
  out : V
  deriving DecidableEq, Repr

/-- The datapath between operations: no step, no note, silence. -/
def Datapath.cleared : Datapath where
  step := 0
  note := ⟨-1, -1, -1, -1⟩
  freq := ⟨0, 0, 0, 0⟩
  p1 := 0
  p2 := 0
  t := .silent
  nz := .silent
  pulseOut := 0
  tndOut := 0
  mixed := 0
  y1 := 0
  y2 := 0
  y3 := 0
  out := 0

/-- The status of a response (R75). -/
inductive Status where
  | ok
  | errShrink
  | errRange
  | errIllegal
  /-- `END`: a TICK that produced no sample -/
  | endOfRender
  deriving DecidableEq, Repr

/-- The `value` of a response: a 32-bit word, or a sample for TICK (R75). -/
inductive RespValue where
  | word (w : RespWord)
  | sample (x : V)
  deriving DecidableEq, Repr

/-- A response `(status, value)` (R75). -/
structure Response where
  status : Status
  value : RespValue
  deriving DecidableEq, Repr

/-- What the outside does to the block: a command word from the host or the sink, or RESET (R3, R186, R200). -/
inductive Event where
  | command (cw : CmdWord)
  | reset
  deriving DecidableEq, Repr

/-- The state: one field per row of R20's table, then the model's own four fields. -/
structure State where
  /-- the live track: `LEN` and `STEP[ch][i]` (R20, R29) -/
  live : Memory
  /-- control register `TEMPO`, beats per minute (R22) -/
  tempo : BitVec 16
  /-- control register `VOLUME`, 0..100 (R22) -/
  volume : BitVec 7
  /-- control register `MODE`: bit 0 `FREQ_ET`, bit 1 `TRI_LEGACY` (R22) -/
  mode : BitVec 2
  /-- `RUN` (R23) -/
  run : RunState
  /-- `CANCEL` (R23) -/
  cancel : Bool
  /-- `n`, the sample counter (R24) -/
  n : Nat
  /-- `N_END`, the samples of this render (R24, R167) -/
  nEnd : Nat
  /-- the snapshot: `S_LEN` and `S_STEP[ch][i]` (R25, R29) -/
  snap : Memory
  /-- `S_TEMPO` (R25) -/
  sTempo : BitVec 16
  /-- `S_VOLUME` (R25) -/
  sVolume : BitVec 7
  /-- `S_MODE` (R25) -/
  sMode : BitVec 2
  /-- registers of high-pass A (R26) -/
  hpa : Filter
  /-- registers of high-pass B (R26) -/
  hpb : Filter
  /-- registers of the low-pass (R26); `lp.prevIn` is written and never read -/
  lp : Filter
  /-- MODEL's own: the values passed between the stages of one TICK (R33). DESIGN CHOICE, safe, log entry 3. -/
  dp : Datapath
  /-- MODEL's own: the index of the next free value; it stands for the noise unit's random state (R30) and for what a RESET
  leaves unspecified (R32). DESIGN CHOICE, log entry 4. -/
  free : Nat
  /-- MODEL's own: the events that will act on the block, in their total order, the next one first (R57). DESIGN CHOICE, safe, log entry 1. -/
  inbox : List Event
  /-- MODEL's own: the response to the last command (R75); `none` when none was answered since RESET. DESIGN CHOICE,
  safe, log entry 2. -/
  resp : Option Response
  deriving DecidableEq, Repr

/-- A memory of length 0: no word exists (R32). -/
def Memory.empty : Memory where
  len := 0
  cells := []

/-- Both registers of a filter at 0 (R32, R163). -/
def Filter.zero : Filter where
  prevIn := 0
  prevOut := 0

/-- The state R32 gives after RESET. What it leaves unspecified is the `k`-th free value; `events` are those still to come. -/
def State.afterReset (k : Nat) (events : List Event) : State where
  live := Memory.empty
  tempo := Config.resetTempo k
  volume := (BitVec.ofNat 7 (Config.resetVolume k).val)
  mode := Config.resetMode k
  run := .idle
  cancel := false
  n := 0
  nEnd := 0
  snap := Memory.empty
  sTempo := Config.resetSTempo k
  sVolume := (BitVec.ofNat 7 (Config.resetSVolume k).val)
  sMode := Config.resetSMode k
  hpa := Filter.zero
  hpb := Filter.zero
  lp := Filter.zero
  dp := Datapath.cleared
  free := k + 1
  inbox := events
  resp := none

/-- The machine right after RESET, with no event waiting (R32, R200). -/
def State.reset : State := State.afterReset 0 []

end Sys2Proof.Machine
end

