-- ==== Sys2Proof/Machine/Constants.lean ====
section
/-! DEFINITION. The constants the document fixes (R6, R9), the two constant tables (R27, R28), and the parameters that the
spec decides (R7): `LMAX`, `HWFREQ_FLOOR`, `TRI_FREQ_DIV`, `rnd` (DEDUCED, unsafe for an engine of the other reading, log entry 12). Decimal literals denote the rationals they spell (R9). -/

namespace Sys2Proof.Machine

/-- `FS`: output samples per second (R6). -/
def fs : V := 48000

/-- `CLOCK_RATE` (R6, R112). -/
def clockRate : V := 1789773

/-- `NPERIOD`: entries of the period table (R6). -/
def nPeriod : Int := 80

/-- `DUTY`, both pulse units (R6, R123). -/
def duty : V := 1 / 2

/-- `K1`, coefficient of high-pass A (R6, R145). -/
def k1 : V := 996039 / 1000000

/-- `K2`, coefficient of high-pass B (R6, R146). -/
def k2 : V := 999835 / 1000000

/-- `KLP`, coefficient of the low-pass (R6, R147). -/
def kLp : V := 815686 / 1000000

/-- `LMAX`: the greatest track length (R7, D7). -/
def lMax : Nat := 65535

/-- `HWFREQ_FLOOR`: false, the quotient of R112 is exact (R7, D10, C4). -/
def hwFreqFloor : Bool := false

/-- `TRI_FREQ_DIV`: 1, no extra halving (R7, D22, C5). -/
def triFreqDiv : V := 1

/-- `rnd`: the identity on V, exact arithmetic (R7, R13, D9). -/
def rnd (x : V) : V := x

/-- `NSLOTS`: an integer with `12 <= NSLOTS <= 16`, otherwise open (R7, D5). -/
def nslots : Nat := Config.nslotsAbove12.val + 12

/-- `LEVEL[k] = -1 + 2k/15` for k = 0..15 (R27). -/
def level (k : Fin 16) : V := -1 + 2 * (k.val : V) / 15

/-- `PERIOD[j]`: entry 0 is the document's 2033, the others are open (R28, R113). Read only with `0 <= j <= 79` (R55). -/
def period (j : Nat) : Nat := if j = 0 then 2033 else Config.periodOpen j

/-- Bit 0 of a mode: `FREQ_ET`, 1 = equal-tempered formula (R22). -/
def freqEtBit (mode : BitVec 2) : Bool := mode.getLsbD 0

/-- Bit 1 of a mode: `TRI_LEGACY`, 1 = simplified legacy triangle (R22). -/
def triLegacyBit (mode : BitVec 2) : Bool := mode.getLsbD 1

/-- The 4-bit code of a status (R75). -/
def Status.code : Status → BitVec 4
  | .ok => 0#4
  | .errShrink => 1#4
  | .errRange => 2#4
  | .errIllegal => 3#4
  | .endOfRender => 4#4

end Sys2Proof.Machine
end

