-- ==== Sys2Proof/Machine/Operands.lean ====
section
/-! DEFINITION. The primitive functions of R11 and the operand forms of R78: how fields and step words become values. -/

namespace Sys2Proof.Machine

/-- `frac(x) = x - floor(x)` (R11). -/
def frac (x : V) : V := x - (x.floor : V)

/-- `x mod p = x - p * floor(x / p)`, for `p > 0` (R11, D18). -/
def modV (x p : V) : V := x - p * ((x / p).floor : V)

/-- `round(x) = sign(x) * floor(abs(x) + 1/2)`: a tie goes away from zero (R11, D20). -/
def roundV (x : V) : Int := if x < 0 then -((-x + 1 / 2).floor) else (x + 1 / 2).floor

/-- `clamp(x, lo, hi)`, "Defined only for `lo <= hi`" (R11); otherwise a free value. -/
def clampInt (x lo hi : Int) : Int :=
  if lo ≤ hi then (if x < lo then lo else if hi < x then hi else x) else Config.clampOpen x lo hi

/-- `2^k` for an integer `k`. -/
def pow2 (k : Int) : V := if 0 ≤ k then ((2 ^ k.toNat : Nat) : V) else 1 / ((2 ^ (-k).toNat : Nat) : V)

/-- The bits of a word that are set, lowest first. -/
def setBits (m : StepWord) : List Nat := (List.range 16).filter fun i => m.getLsbD i

/-- `ctz(m)`: for a non-zero word, the index of its lowest set bit (R11). No rule takes it of 0. -/
def ctz (m : StepWord) : Nat := (setBits m).headD 16

/-- `popcount(m)`: the number of set bits (R11). -/
def popcount (m : StepWord) : Nat := (setBits m).length

/-- `1 << slot`, 16 bits (R78). -/
def oneHot (slot : Nat) : StepWord := 1#16 <<< slot

/-- `(1 << NSLOTS) - 1`: the slot bits of a step word (R70, R98). -/
def slotMask : StepWord := BitVec.ofNat 16 (2 ^ nslots - 1)

/-- The mask arithmetic of SELECT: mask down to the toggled bit, then toggle it (R90). -/
def toggleSlot (m : StepWord) (slot : Nat) : StepWord := (m &&& oneHot slot) ^^^ oneHot slot

/-- `noteOf(ch, slot) = NOTE_BASE[ch] + slot` (R78, D6). -/
def noteOf (ch : Channel) (slot : Nat) : Int := ((Config.noteBase ch.num).val + slot : Nat)

/-- `noteIndex(ch, m)`: -1 for a zero word, else the note of the lowest set bit (R78). -/
def noteIndex (ch : Channel) (m : StepWord) : Int := if m = 0#16 then -1 else noteOf ch (ctz m)

/-- The flat address of a step word: `ch * 65536 + i` (R50). -/
def flatAddr (ch : Channel) (i : Nat) : Nat := ch.num.val * 65536 + i

/-- The step index of a flat address (R50). -/
def indexOf (a : Nat) : Nat := a % 65536

/-- The value of a triangle or noise output in V (R122, R126, R127). -/
def GenOut.toV : GenOut → V
  | .silent => 0
  | .level k => Sys2Proof.Machine.level k

/-- The component of a channel. -/
def PerChannel.get {α : Type} (p : PerChannel α) : Channel → α
  | .pulseA => p.pulseA
  | .pulseB => p.pulseB
  | .triangle => p.triangle
  | .noise => p.noise

/-- The same with one channel's component replaced. -/
def PerChannel.set {α : Type} (p : PerChannel α) (ch : Channel) (x : α) : PerChannel α :=
  match ch with
  | .pulseA => { p with pulseA := x }
  | .pulseB => { p with pulseB := x }
  | .triangle => { p with triangle := x }
  | .noise => { p with noise := x }

/-- `active[ch]` of a pitched channel (R122). -/
def activePitched (note : Int) (freq : V) : Bool := note ≠ -1 ∧ 0 < freq

/-- `active[3]` of the noise channel: `note[3] != -1` (R122). -/
def activeNoise (note : Int) : Bool := note ≠ -1

end Sys2Proof.Machine
end

