-- ==== Sys2Proof/Machine/Ops.lean ====
section
/-! DEFINITION. The named operations over the step memories (R12, R50 to R55, R62) and the state that the meanings share: reading
and writing step words, growing and truncating, responding (R75, R180), drawing a free value (R30, R127). The error response is
what taking an exception is on this hardware: "`raise <Exception>(info)` becomes" `respond(status, value)` (R12), it "saves no
state ... and sends control nowhere" (R187), and there is no return from it (R188). -/

namespace Sys2Proof.Machine

/-! ### Step memories -/

/-- The word listed at a flat address; 0 if none is (R32, R94). -/
def lookupCell : List StepCell → Nat → StepWord
  | [], _ => 0#16
  | (b, w) :: rest, a => if a = b then w else lookupCell rest a

/-- Put a word at a flat address, keeping the addresses rising and listing no zero word. -/
def putCell : List StepCell → Nat → StepWord → List StepCell
  | [], a, v => if v = 0#16 then [] else [(a, v)]
  | (b, w) :: rest, a, v =>
    if a < b then (if v = 0#16 then (b, w) :: rest else (a, v) :: (b, w) :: rest)
    else if a = b then (if v = 0#16 then rest else (b, v) :: rest)
    else (b, w) :: putCell rest a v

/-- `StepRead(space, ch, i)` (R12): an address `(ch, i)` names a word iff `i` is below the length (R50). -/
def Memory.read (m : Memory) (ch : Channel) (i : Nat) : Option StepWord :=
  if i < m.len then some (lookupCell m.cells (flatAddr ch i)) else none

/-- `StepWrite(space, ch, i, v)` (R12), for an `i` below the length. -/
def Memory.write (m : Memory) (ch : Channel) (i : Nat) (v : StepWord) : Memory :=
  { m with cells := putCell m.cells (flatAddr ch i) v }

/-- The words at an index below `k`: what is left when every other word ceases to exist. -/
def Memory.keepBelow (m : Memory) (k : Nat) : List StepCell := m.cells.filter fun c => indexOf c.1 < k

/-- Append `cnt` empty steps to every channel: the new words are 0 (R94). -/
def Memory.grow (m : Memory) (cnt : Nat) : Memory where
  len := m.len + cnt
  cells := m.keepBelow m.len

/-- Remove the last `cnt` steps of every channel: words at or above the new length cease to exist (R95). -/
def Memory.shrink (m : Memory) (cnt : Nat) : Memory where
  len := m.len - cnt
  cells := m.keepBelow (m.len - cnt)

/-- The canonical form of a step memory: at most `LMAX` steps (R51); addresses strictly rising, each of an existing word of one of
the four channels (R50); and no listed word is 0, which is what an unlisted word reads as. -/
abbrev Memory.wf (m : Memory) : Prop :=
  m.len ≤ lMax ∧ m.cells.Pairwise (fun c d => c.1 < d.1) ∧
    ∀ c ∈ m.cells, c.2 ≠ 0#16 ∧ c.1 < 4 * 65536 ∧ indexOf c.1 < m.len

/-- "Bits `NSLOTS .. 15` are reserved and always read 0" (R70, R100 (c)). -/
abbrev Memory.reservedClear (m : Memory) : Prop := ∀ c ∈ m.cells, c.2 &&& slotMask = c.2

/-- Every word has at most one bit set (R100 (b)). -/
abbrev Memory.exclusive (m : Memory) : Prop := ∀ c ∈ m.cells, popcount c.2 ≤ 1

/-! ### The state's named updates -/

/-- `respond(status, value)` (R12, R75): ends a command. -/
def State.respond (s : State) (status : Status) (value : RespValue) : State := { s with resp := some ⟨status, value⟩ }

/-- Answer OK with a 32-bit word (R75). -/
def State.answer (s : State) (w : RespWord) : State := s.respond .ok (.word w)

/-- Replace the live track. -/
def State.setLive (s : State) (m : Memory) : State := { s with live := m }

/-- Replace the values between the stages. -/
def State.setDp (s : State) (d : Datapath) : State := { s with dp := d }

/-- One free value has been used. -/
def State.advanceFree (s : State) : State := { s with free := s.free + 1 }

/-- The error response, shared by every error condition: "`respond(status, 0)` with a non-zero error status before any write", so
nothing but the response changes (R180). -/
def reject (s : State) (status : Status) : Host.Outcome State Fault Refusal := .next (s.respond status (.word 0#32))

/-- Go on from a next state; a fault or a refusal ends the operation. -/
def andThen (o : Host.Outcome State Fault Refusal) (f : State → Host.Outcome State Fault Refusal) :
    Host.Outcome State Fault Refusal :=
  match o with
  | .next s => f s
  | .fault r => .fault r
  | .refused r => .refused r

end Sys2Proof.Machine
end

