-- ==== Sys2Proof/Machine/Flags.lean ====
section
/-! DEFINITION. The two flags, `RUN` and `CANCEL` (R23), and every computation over them: who sets them, who clears them, and the
test TICK makes before it computes a sample (R163 to R165). There are no arithmetic condition codes (R23). -/

namespace Sys2Proof.Machine

/-- `CANCEL <- 1`: the stop signal (R163, R164). -/
def State.raiseCancel (s : State) : State := { s with cancel := true }

/-- `CANCEL <- 0`: "clearing the flag on exit" (R163, R165). -/
def State.clearCancel (s : State) : State := { s with cancel := false }

/-- `RUN <- v` (R23). -/
def State.setRun (s : State) (v : RunState) : State := { s with run := v }

/-- The first branch of PLAY: "if a playback is already active, first stop it" (R163). -/
def State.endActiveRender (s : State) : State :=
  match s.run with
  | .playing => ((s.raiseCancel).setRun .idle).clearCancel
  | .idle => s

/-- The ending branch of TICK is taken: "stopped, or ran out of samples" (R165). -/
def State.renderOver (s : State) : Bool := s.cancel || decide (s.nEnd ≤ s.n)

/-- A TICK produces a sample: Playing, not cancelled, `n < N_END` (R165, R169). -/
def State.producesSample (s : State) : Bool := decide (s.run = .playing) && !s.renderOver

end Sys2Proof.Machine
end

