-- ==== Sys2Proof/Machine/Configuration.lean ====
section
/-! DEFINITION. The meanings of the configuration operations: SETTEMPO, SETVOL, SETMODE (R160 to R162). They write one live control
register; a render in flight keeps its snapshot (R203). -/

namespace Sys2Proof.Machine

/-- `SETTEMPO bpm` (R160): 0 is accepted. -/
def execSetTempo (bpm : BitVec 16) (s : State) : Host.Outcome State Fault Refusal :=
  .next (({ s with tempo := bpm } : State).answer 0#32)

/-- `SETVOL vol` (R161): 101..127 answer ERR_RANGE. -/
def execSetVol (vol : BitVec 7) (s : State) : Host.Outcome State Fault Refusal :=
  if 100 < vol.toNat then reject s .errRange
  else .next (({ s with volume := vol } : State).answer 0#32)

/-- `SETMODE mode` (R162): all four values are accepted. -/
def execSetMode (mode : BitVec 2) (s : State) : Host.Outcome State Fault Refusal :=
  .next (({ s with mode := mode } : State).answer 0#32)

end Sys2Proof.Machine
end

