-- ==== Sys2Proof/Machine/Filters.lean ====
section
/-! DEFINITION. `cascaded_iir_filter_chain`: the stages HPF.A, HPF.B, LPF (R144 to R148). Each reads both of its registers, computes,
then writes both (D25); "No filter reads another filter's registers" (R26). -/

namespace Sys2Proof.Machine

/-- The output of the high-pass form: `prevOut * k + x - prevIn` (R144). -/
def highPass (f : Filter) (k x : V) : V := f.prevOut * k + x - f.prevIn

/-- The output of the low-pass: `(x - prevOut) * KLP` (R147, C8). -/
def lowPass (f : Filter) (x : V) : V := (x - f.prevOut) * kLp

/-- HPF.A over the state: input `mixed`, output `y1` (R145). -/
def hpfAStage (s : State) : State :=
  let y := highPass s.hpa k1 s.dp.mixed
  { s with hpa := ⟨s.dp.mixed, y⟩, dp := { s.dp with y1 := y } }

/-- HPF.B over the state: input `y1`, output `y2` (R146). -/
def hpfBStage (s : State) : State :=
  let y := highPass s.hpb k2 s.dp.y1
  { s with hpb := ⟨s.dp.y1, y⟩, dp := { s.dp with y2 := y } }

/-- LPF over the state: input `y2`, output `y3` (R147). -/
def lpfStage (s : State) : State :=
  let y := lowPass s.lp s.dp.y2
  { s with lp := ⟨s.dp.y2, y⟩, dp := { s.dp with y3 := y } }

/-- Stage HPF.A (R145). -/
def execHpfA (s : State) : Host.Outcome State Fault Refusal := .next (hpfAStage s)

/-- Stage HPF.B (R146). -/
def execHpfB (s : State) : Host.Outcome State Fault Refusal := .next (hpfBStage s)

/-- Stage LPF (R147). -/
def execLpf (s : State) : Host.Outcome State Fault Refusal := .next (lpfStage s)

end Sys2Proof.Machine
end

