-- ==== Sys2Proof/Machine/Mixer.lean ====
section
/-! DEFINITION. `nonlinear_mixer`: the stages MIX.PULSE, MIX.TND, MIX.SUM (R140 to R142). -/

namespace Sys2Proof.Machine

/-- `pulseOut` of `ps = p1 + p2` (R140): 0 for 0, else `95.88 / (8128 / ps + 100)`. -/
def mixPulse (p1 p2 : Fin 2) : V :=
  let ps := p1.val + p2.val
  if ps = 0 then 0 else (9588 / 100) / (8128 / (ps : V) + 100)

/-- The inner sum of MIX.TND, the DMC input being the constant 0 (R141). -/
def tndSum (t nz : V) : V := t / 8227 + nz / 12241 + 0 / 22638

/-- `tndOut` (R141): 0 for `s = 0`, else `159.79 / (1 / s + 100)`. For the outputs of the two units the divisor `1 / s + 100` is
never 0 (R141). -/
def mixTnd (t nz : GenOut) : V :=
  let s := tndSum t.toV nz.toV
  if s = 0 then 0 else (15979 / 100) / (1 / s + 100)

/-- `mixed` (R142). -/
def mixSum (pulseOut tndOut : V) : V := pulseOut + tndOut

/-- MIX.PULSE over the state. -/
def mixPulseStage (s : State) : State := s.setDp { s.dp with pulseOut := mixPulse s.dp.p1 s.dp.p2 }

/-- MIX.TND over the state. -/
def mixTndStage (s : State) : State := s.setDp { s.dp with tndOut := mixTnd s.dp.t s.dp.nz }

/-- MIX.SUM over the state. -/
def mixSumStage (s : State) : State := s.setDp { s.dp with mixed := mixSum s.dp.pulseOut s.dp.tndOut }

/-- Stage MIX.PULSE (R140). -/
def execMixPulse (s : State) : Host.Outcome State Fault Refusal := .next (mixPulseStage s)

/-- Stage MIX.TND (R141). -/
def execMixTnd (s : State) : Host.Outcome State Fault Refusal := .next (mixTndStage s)

/-- Stage MIX.SUM (R142). -/
def execMixSum (s : State) : Host.Outcome State Fault Refusal := .next (mixSumStage s)

end Sys2Proof.Machine
end

