-- ==== Sys2Proof/Machine/Frequency.lean ====
section
/-! DEFINITION. `note_to_freq_lut`: the stages FREQ.HW and FREQ.ET (R110 to R116). The unit is a pure function; a stage applies it
to `note[ch]` and puts the frequency in `freq[ch]` (R122). -/

namespace Sys2Proof.Machine

/-- `FREQ.HW note` (R112). -/
def freqHw (note : Int) : V :=
  if note < 0 ∨ nPeriod ≤ note then 0
  else
    let q := clockRate / (16 * ((period note.toNat : V) + 1))
    if hwFreqFloor then (q.floor : V) else q

/-- Law (e) of R111 for a candidate `c` of `etFreq(69 + j)`: it lies within relative error `2^-23` of the real number `r > 0` with
`r^12 = 440^12 * 2^j`, that is `c / (1 + 2^-23) <= r <= c / (1 - 2^-23)`, compared through 12th powers. -/
def etLawE (j : Nat) (c : V) : Bool :=
  0 < c ∧ (c / (1 + 1 / 8388608)) ^ 12 ≤ 440 ^ 12 * 2 ^ j ∧ 440 ^ 12 * 2 ^ j ≤ (c / (1 - 1 / 8388608)) ^ 12

/-- Numbers that meet law (e) for `j = 1..11`: `440 * 2^(j/12)` to nine decimals. They are used only if the open candidate
breaks the law, so that `etFreq` satisfies R111 whatever the candidates are. -/
def etLawful (j : Nat) : V :=
  match j with
  | 1 => 466163761518 / 1000000000
  | 2 => 493883301256 / 1000000000
  | 3 => 523251130601 / 1000000000
  | 4 => 554365261954 / 1000000000
  | 5 => 587329535835 / 1000000000
  | 6 => 622253967444 / 1000000000
  | 7 => 659255113826 / 1000000000
  | 8 => 698456462866 / 1000000000
  | 9 => 739988845423 / 1000000000
  | 10 => 783990871963 / 1000000000
  | 11 => 830609395160 / 1000000000
  | _ => 440

/-- `etFreq(69 + j)` for `j = 0..11`: 440 for `j = 0` (law (a)), else the open candidate where it meets law (e). -/
def etOctave (j : Nat) : V :=
  if j = 0 then 440 else if etLawE j (Config.etCandidate j) then Config.etCandidate j else etLawful j

/-- `etFreq note` (R111): `etOctave` at the note's place in the octave above 69, doubled per octave (law (b)). Every function
that meets laws (a) to (e) is this one for some value of the open candidates. DESIGN CHOICE, unsafe through law (e) only, log
entry 7. -/
def etFreq (note : Int) : V := pow2 ((note - 69) / 12) * etOctave ((note - 69) % 12).toNat

/-- `FREQ.ET note` (R110). -/
def freqEt (note : Int) : V := etFreq note

/-- The stage that puts `FREQ.HW(note[ch])` in `freq[ch]`. -/
def freqHwStage (ch : Channel) (s : State) : State :=
  s.setDp { s.dp with freq := s.dp.freq.set ch (freqHw (s.dp.note.get ch)) }

/-- The stage that puts `FREQ.ET(note[ch])` in `freq[ch]`. -/
def freqEtStage (ch : Channel) (s : State) : State :=
  s.setDp { s.dp with freq := s.dp.freq.set ch (freqEt (s.dp.note.get ch)) }

/-- What TICK does for one pitched channel: the strategy is `S_MODE.FREQ_ET` (R114), "only evaluated if note[ch] != -1" (R122). -/
def freqStage (ch : Channel) (s : State) : State :=
  if s.dp.note.get ch = -1 then s
  else if freqEtBit s.sMode then freqEtStage ch s else freqHwStage ch s

/-- Stage FREQ.HW (R112). -/
def execFreqHw (ch : Channel) (s : State) : Host.Outcome State Fault Refusal := .next (freqHwStage ch s)

/-- Stage FREQ.ET (R110). -/
def execFreqEt (ch : Channel) (s : State) : Host.Outcome State Fault Refusal := .next (freqEtStage ch s)

end Sys2Proof.Machine
end

