-- ==== Sys2Proof/Machine/Oscillators.lean ====
section
/-! DEFINITION. Sequencing and the four generators: the stages STEPIDX, NOTE, PULSE.A, PULSE.B, TRI, NOISE (R120 to R129). They read
the snapshot, `n` and the values of earlier stages, and write only the datapath; the noise unit also makes a draw. -/

namespace Sys2Proof.Machine

/-- The step index: `clamp(floor(n * S_TEMPO / 2880000), 0, S_LEN - 1)` (R120). -/
def stepIndex (n tempo len : Nat) : Int := clampInt ((n * tempo / 2880000 : Nat) : Int) 0 ((len : Int) - 1)

/-- The word the engine reads for a channel: `(ch, s)` in `snap` (R62), none if it names no word (R50). -/
def snapWord (snap : Memory) (ch : Channel) (step : Int) : Option StepWord :=
  if 0 ≤ step then snap.read ch step.toNat else none

/-- `pulse(n, f)` for `f > 0`: 0 in the first `DUTY` of the window, 1 otherwise (R123). -/
def pulse (n : Nat) (f : V) : Fin 2 :=
  let u := (n : V) * f / fs
  if frac u < duty then 0 else 1

/-- The triangle's index `k = round(((n * 30 * r) mod 30) - 15)`, `r = (f / TRI_FREQ_DIV) / 48000` (R126). -/
def triIndex (n : Nat) (f : V) : Int :=
  let r := f / triFreqDiv / fs
  roundV (modV ((n : V) * 30 * r) 30 - 15)

/-- The table entry of a triangle index: folded by `abs`, or in legacy mode not folded and with no entry for `k < 0` (R126, R55).
`abs(k)` is in 0..15 (R14), so nothing is lost in `Fin 16`. -/
def triLevel (legacy : Bool) (k : Int) : Option GenOut :=
  if legacy then (if 0 ≤ k then some (.level (Fin.ofNat 16 k.toNat)) else none)
  else some (.level (Fin.ofNat 16 k.natAbs))

/-- The output of TRI; none is the case the spec refuses (R126). -/
def triangle (n : Nat) (note : Int) (freq : V) (legacy : Bool) : Option GenOut :=
  if activePitched note freq then triLevel legacy (triIndex n freq) else some .silent

/-- The output of a pulse unit (R124, R125). -/
def pulseUnit (n : Nat) (note : Int) (freq : V) : Fin 2 :=
  if activePitched note freq then pulse n freq else 0

/-- Stage 1 over the state (R120). -/
def stepIdxStage (s : State) : State :=
  s.setDp { s.dp with step := stepIndex s.n s.sTempo.toNat s.snap.len }

/-- Stage 2 over the state (R121). -/
def noteStage (ch : Channel) (s : State) : Host.Outcome State Fault Refusal :=
  match snapWord s.snap ch s.dp.step with
  | some m => .next (s.setDp { s.dp with note := s.dp.note.set ch (noteIndex ch m) })
  | none => .fault .noSuchStep

/-- PULSE.A over the state (R124). -/
def pulseAStage (s : State) : State :=
  s.setDp { s.dp with p1 := pulseUnit s.n s.dp.note.pulseA s.dp.freq.pulseA }

/-- PULSE.B over the state (R125). -/
def pulseBStage (s : State) : State :=
  s.setDp { s.dp with p2 := pulseUnit s.n s.dp.note.pulseB s.dp.freq.pulseB }

/-- TRI over the state (R126). -/
def triStage (s : State) : Host.Outcome State Fault Refusal :=
  match triangle s.n s.dp.note.triangle s.dp.freq.triangle (triLegacyBit s.sMode) with
  | some g => .next (s.setDp { s.dp with t := g })
  | none => .refused .legacyTriangleNegativeIndex

/-- NOISE over the state (R127): a fresh draw if the channel is active, otherwise silence and "no draw is made". -/
def noiseStage (s : State) : State :=
  if activeNoise s.dp.note.noise then (s.setDp { s.dp with nz := .level (Config.draw s.free) }).advanceFree
  else s.setDp { s.dp with nz := .silent }

/-- Stage STEPIDX (R120). -/
def execStepIdx (s : State) : Host.Outcome State Fault Refusal := .next (stepIdxStage s)

/-- Stage NOTE (R121). -/
def execNote (ch : Channel) (s : State) : Host.Outcome State Fault Refusal := noteStage ch s

/-- Stage PULSE.A, the unit `pulse_osc_a` (R124). -/
def execPulseA (s : State) : Host.Outcome State Fault Refusal := .next (pulseAStage s)

/-- Stage PULSE.B, the unit `pulse_osc_b` (R125). -/
def execPulseB (s : State) : Host.Outcome State Fault Refusal := .next (pulseBStage s)

/-- Stage TRI, the unit `triangle_osc` (R126). -/
def execTri (s : State) : Host.Outcome State Fault Refusal := triStage s

/-- Stage NOISE, the unit `noise_lfsr` (R127). -/
def execNoise (s : State) : Host.Outcome State Fault Refusal := .next (noiseStage s)

end Sys2Proof.Machine
end

