-- ==== Sys2Proof/Machine/Playback.lean ====
section
/-! DEFINITION. The playback controller: PLAY, STOP, TICK and the stage GAIN (R163 to R167, R169). TICK is one atomic operation that
"executes every STAGE row ... once, in the order given, when it produces a sample" (R74, R165). -/

namespace Sys2Proof.Machine

/-- `N_END = 800 * S_LEN * S_TEMPO` (R167). -/
def renderLength (len tempo : Nat) : Nat := 800 * len * tempo

/-- PLAY copies the whole live state into the snapshot, in one atomic step (R25, R163). -/
def State.capture (s : State) : State :=
  { s with snap := s.live, sTempo := s.tempo, sVolume := s.volume, sMode := s.mode }

/-- The render reset: `n` and the six filter registers to 0, `N_END` from the snapshot (R163, R200). -/
def State.resetRender (s : State) : State :=
  { s with n := 0, nEnd := renderLength s.snap.len s.sTempo.toNat, hpa := Filter.zero, hpb := Filter.zero, lp := Filter.zero }

/-- `PLAY` (R163). While Idle it leaves `CANCEL` as it is, 0 by the invariant (DEDUCED, safe, log entry 18). -/
def execPlay (s : State) : Host.Outcome State Fault Refusal :=
  .next (((s.endActiveRender.capture.resetRender).setRun .playing).answer 0#32)

/-- `STOP` (R164): only asks; while Idle it does nothing (D29). -/
def execStop (s : State) : Host.Outcome State Fault Refusal :=
  match s.run with
  | .playing => .next (s.raiseCancel.answer 0#32)
  | .idle => .next (s.answer 0#32)

/-- `out = y3 * S_VOLUME / 100` (R166). -/
def gain (y3 : V) (volume : BitVec 7) : V := y3 * (volume.toNat : V) / 100

/-- GAIN over the state (R166). -/
def gainStage (s : State) : State := s.setDp { s.dp with out := gain s.dp.y3 s.sVolume }

/-- Stage GAIN (R166). -/
def execGain (s : State) : Host.Outcome State Fault Refusal := .next (gainStage s)

/-- Stage NOTE for ch = 0..3 (R74 order 2). -/
def noteStages (s : State) : Host.Outcome State Fault Refusal :=
  andThen (noteStage .pulseA s) fun s =>
    andThen (noteStage .pulseB s) fun s =>
      andThen (noteStage .triangle s) fun s => noteStage .noise s

/-- The frequency stage for ch = 0..2 (R74 order 3). -/
def freqStages (s : State) : State := freqStage .triangle (freqStage .pulseB (freqStage .pulseA s))

/-- The mixer, the filter chain and the gain, in order (R74 orders 5 to 9, R148). -/
def outputStages (s : State) : State :=
  gainStage (lpfStage (hpfBStage (hpfAStage (mixSumStage (mixTndStage (mixPulseStage s))))))

/-- All stages of one sample, in the order of R74. -/
def sampleStages (s : State) : Host.Outcome State Fault Refusal :=
  andThen (noteStages (stepIdxStage (s.setDp Datapath.cleared))) fun s =>
    andThen (triStage (pulseBStage (pulseAStage (freqStages s)))) fun s => .next (outputStages (noiseStage s))

/-- `n <- n + 1` and `respond(OK, out)` (R165); the values of the stages are not kept (R33). -/
def State.deliver (s : State) : State :=
  ({ s with n := s.n + 1, dp := Datapath.cleared } : State).respond .ok (.sample (rnd s.dp.out))

/-- `respond(END, 0)`: a TICK that produced no sample; its value is the sample 0 (R75, R165; DEDUCED, safe, log entry 13). -/
def State.respondEnd (s : State) : State := s.respond .endOfRender (.sample 0)

/-- `TICK` (R165). -/
def execTick (s : State) : Host.Outcome State Fault Refusal :=
  match s.run with
  | .idle => .next s.respondEnd
  | .playing =>
    if s.renderOver then .next ((s.setRun .idle).clearCancel).respondEnd
    else andThen (sampleStages s) fun s => .next s.deliver

end Sys2Proof.Machine
end

