-- ==== Sys2Proof/Machine/ResetEvent.lean ====
section
/-! DEFINITION. The meaning of the event RESET (R200): "after it the state is exactly that of" R32, with a fresh free value for each
register R32 leaves unspecified. It overrides everything (R186) and is answered by no response. The events still to come are not
the block's state and stay (DESIGN CHOICE, safe, log entry 14). -/

namespace Sys2Proof.Machine

/-- `RESET` (R200). -/
def execReset (s : State) : Host.Outcome State Fault Refusal := .next (State.afterReset s.free s.inbox)

end Sys2Proof.Machine
end

