-- ==== Sys2Proof/Machine/StepModel.lean ====
section
/-! DEFINITION. The meanings of the step-memory operations: SELECT, ISSEL, NOTEIDX, GROW, SHRINK, GETLEN, NEWTRACK, WRSTEP, RDSTEP
(R90 to R99). They touch the live track and the response only. -/

namespace Sys2Proof.Machine

/-- `SELECT ch, step, slot` (R90). -/
def execSelect (ch : Channel) (step : BitVec 16) (slot : BitVec 4) (s : State) : Host.Outcome State Fault Refusal :=
  match s.live.read ch step.toNat with
  | none => reject s .errRange
  | some m =>
    if nslots ≤ slot.toNat then reject s .errRange
    else .next ((s.setLive (s.live.write ch step.toNat (toggleSlot m slot.toNat))).answer 0#32)

/-- `ISSEL ch, step, slot` (R91): equality with `1 << slot`, not a bit test. -/
def execIsSel (ch : Channel) (step : BitVec 16) (slot : BitVec 4) (s : State) : Host.Outcome State Fault Refusal :=
  match s.live.read ch step.toNat with
  | none => reject s .errRange
  | some m =>
    if nslots ≤ slot.toNat then reject s .errRange
    else .next (s.answer (if m = oneHot slot.toNat then 1#32 else 0#32))

/-- `NOTEIDX ch, step` (R92): the note number in 32-bit two's complement. -/
def execNoteIdx (ch : Channel) (step : BitVec 16) (s : State) : Host.Outcome State Fault Refusal :=
  match s.live.read ch step.toNat with
  | none => reject s .errRange
  | some m => .next (s.answer (BitVec.ofInt 32 (noteIndex ch m)))

/-- `GROW cnt` (R94). -/
def execGrow (cnt : BitVec 16) (s : State) : Host.Outcome State Fault Refusal :=
  if lMax < s.live.len + cnt.toNat then reject s .errRange
  else .next ((s.setLive (s.live.grow cnt.toNat)).answer 0#32)

/-- `SHRINK cnt` (R95): it fails iff the length would go below zero (C1). -/
def execShrink (cnt : BitVec 16) (s : State) : Host.Outcome State Fault Refusal :=
  if s.live.len < cnt.toNat then reject s .errShrink
  else .next ((s.setLive (s.live.shrink cnt.toNat)).answer 0#32)

/-- `GETLEN` (R96). -/
def execGetLen (s : State) : Host.Outcome State Fault Refusal :=
  .next (s.answer (BitVec.ofNat 32 s.live.len))

/-- `NEWTRACK` (R97): only the track is replaced. -/
def execNewTrack (s : State) : Host.Outcome State Fault Refusal :=
  .next ((s.setLive Memory.empty).answer 0#32)

/-- `WRSTEP ch, step, mask` (R98): reserved bits are dropped. -/
def execWrStep (ch : Channel) (step mask : BitVec 16) (s : State) : Host.Outcome State Fault Refusal :=
  match s.live.read ch step.toNat with
  | none => reject s .errRange
  | some _ => .next ((s.setLive (s.live.write ch step.toNat (mask &&& slotMask))).answer 0#32)

/-- `RDSTEP ch, step` (R99): the word, zero-extended. -/
def execRdStep (ch : Channel) (step : BitVec 16) (s : State) : Host.Outcome State Fault Refusal :=
  match s.live.read ch step.toNat with
  | none => reject s .errRange
  | some m => .next (s.answer (m.setWidth 32))

end Sys2Proof.Machine
end

