-- ==== Sys2Proof/Machine/Dispatch.lean ====
section
/-! DEFINITION. One arm per operation: `exec i s` runs the operation `i` at the state `s`. -/

namespace Sys2Proof.Machine

def exec (i : Instr) (s : State) : Host.Outcome State Fault Refusal :=
  match i with
  -- step model
  | .select ch step slot => Sys2Proof.Machine.execSelect ch step slot s
  | .isSel ch step slot => Sys2Proof.Machine.execIsSel ch step slot s
  | .noteIdx ch step => Sys2Proof.Machine.execNoteIdx ch step s
  | .grow cnt => Sys2Proof.Machine.execGrow cnt s
  | .shrink cnt => Sys2Proof.Machine.execShrink cnt s
  | .getLen => Sys2Proof.Machine.execGetLen s
  | .newTrack => Sys2Proof.Machine.execNewTrack s
  | .wrStep ch step mask => Sys2Proof.Machine.execWrStep ch step mask s
  | .rdStep ch step => Sys2Proof.Machine.execRdStep ch step s
  -- configuration
  | .setTempo bpm => Sys2Proof.Machine.execSetTempo bpm s
  | .setVol vol => Sys2Proof.Machine.execSetVol vol s
  | .setMode mode => Sys2Proof.Machine.execSetMode mode s
  -- playback
  | .play => Sys2Proof.Machine.execPlay s
  | .stop => Sys2Proof.Machine.execStop s
  | .tick => Sys2Proof.Machine.execTick s
  -- datapath stages
  | .stepIdx => Sys2Proof.Machine.execStepIdx s
  | .note ch => Sys2Proof.Machine.execNote ch s
  | .freqHw ch => Sys2Proof.Machine.execFreqHw ch s
  | .freqEt ch => Sys2Proof.Machine.execFreqEt ch s
  | .pulseA => Sys2Proof.Machine.execPulseA s
  | .pulseB => Sys2Proof.Machine.execPulseB s
  | .tri => Sys2Proof.Machine.execTri s
  | .noise => Sys2Proof.Machine.execNoise s
  | .mixPulse => Sys2Proof.Machine.execMixPulse s
  | .mixTnd => Sys2Proof.Machine.execMixTnd s
  | .mixSum => Sys2Proof.Machine.execMixSum s
  | .hpfA => Sys2Proof.Machine.execHpfA s
  | .hpfB => Sys2Proof.Machine.execHpfB s
  | .lpf => Sys2Proof.Machine.execLpf s
  | .gain => Sys2Proof.Machine.execGain s
  -- event
  | .reset => Sys2Proof.Machine.execReset s

end Sys2Proof.Machine
end

