-- ==== Sys2Proof/WellFormed.lean ====
section
/-! DEFINITION. Which terms of `Instr` are operations of the hardware. A command's operand fields have exactly the widths
R71 and R72 give them, so every command term is well formed: an operand out of its range (`slot >= NSLOTS`, `step >= LEN`,
`vol > 100`) is a legal word (R76) that answers `ERR_RANGE`. What can be ill formed is a frequency stage on the noise channel:
"The noise unit does not" use `note_to_freq_lut` (R116), the stages run "three times, ch 0..2" (R74). DESIGN CHOICE, safe, log entry 15. -/

namespace Sys2Proof

/-- A channel that takes a frequency from `note_to_freq_lut`: pulse A, pulse B, triangle (R116). -/
def Channel.pitched : Channel → Bool
  | .pulseA | .pulseB | .triangle => true
  | .noise => false

/-- The operation is one the hardware has (R73, R74, R200). -/
def Instr.wellFormed : Instr → Bool
  | .freqHw ch => ch.pitched
  | .freqEt ch => ch.pitched
  | .select _ _ _ | .isSel _ _ _ | .noteIdx _ _ | .grow _ | .shrink _ | .getLen | .newTrack | .wrStep _ _ _ | .rdStep _ _
  | .setTempo _ | .setVol _ | .setMode _ | .play | .stop | .tick => true
  | .stepIdx | .note _ | .pulseA | .pulseB | .tri | .noise | .mixPulse | .mixTnd | .mixSum
  | .hpfA | .hpfB | .lpf | .gain | .reset => true

end Sys2Proof
end

