-- ==== Sys2Proof/Decode.lean ====
section
/-! DEFINITION. The decoder of command words (R71 to R73, R76, R80), total on all 2^64 words and rejecting by name, and after it
the encoder, written from the same tables. The stages and RESET have no word (R74, R200). -/

namespace Sys2Proof

/-- Why a word is not a command (R76). All of them answer `ERR_ILLEGAL`; the names say which clause of R76 applies. -/
inductive DecodeError where
  /-- `op` is none of the fifteen codes of R73 -/
  | unassignedOp
  /-- a non-zero bit in the zero field 55:50 -/
  | zeroField
  /-- a non-zero `ch` in an operation without a channel operand -/
  | unusedChannel
  /-- a non-zero `step` in an operation without a step operand -/
  | unusedStep
  /-- a non-zero bit of `arg` that the operation does not use -/
  | unusedArg
  deriving DecidableEq, Repr

/-- Field `op`, bits 63:56 (R71). -/
def opField (cw : CmdWord) : BitVec 8 := cw.extractLsb' 56 8

/-- The field that must be zero, bits 55:50 (R71). -/
def zeroField (cw : CmdWord) : BitVec 6 := cw.extractLsb' 50 6

/-- Field `ch`, bits 49:48 (R71). -/
def chField (cw : CmdWord) : BitVec 2 := cw.extractLsb' 48 2

/-- Field `step`, bits 47:32 (R71). -/
def stepField (cw : CmdWord) : BitVec 16 := cw.extractLsb' 32 16

/-- Field `arg`, bits 31:0 (R71). -/
def argField (cw : CmdWord) : BitVec 32 := cw.extractLsb' 0 32

/-- The must-be-zero checks of one operation (R71, R72, R76): `useCh` and `useStep` say whether it has that operand,
`argBits` how many low bits of `arg` it uses. -/
def checked (cw : CmdWord) (useCh useStep : Bool) (argBits : Nat) (i : Instr) : Except DecodeError Instr :=
  if zeroField cw ≠ 0#6 then .error .zeroField
  else if useCh = false ∧ chField cw ≠ 0#2 then .error .unusedChannel
  else if useStep = false ∧ stepField cw ≠ 0#16 then .error .unusedStep
  else if argField cw >>> argBits ≠ 0#32 then .error .unusedArg
  else .ok i

/-- The operation a command word is, or why it is none (R73, R76). -/
def decode (cw : CmdWord) : Except DecodeError Instr :=
  let ch := Channel.ofBits (chField cw)
  let step := stepField cw
  match (opField cw).toNat with
  | 0x01 => checked cw true true 4 (.select ch step ((argField cw).extractLsb' 0 4))
  | 0x02 => checked cw true true 4 (.isSel ch step ((argField cw).extractLsb' 0 4))
  | 0x03 => checked cw true true 0 (.noteIdx ch step)
  | 0x04 => checked cw false false 16 (.grow ((argField cw).extractLsb' 0 16))
  | 0x05 => checked cw false false 16 (.shrink ((argField cw).extractLsb' 0 16))
  | 0x06 => checked cw false false 0 .getLen
  | 0x07 => checked cw false false 0 .newTrack
  | 0x08 => checked cw true true 16 (.wrStep ch step ((argField cw).extractLsb' 0 16))
  | 0x09 => checked cw true true 0 (.rdStep ch step)
  | 0x10 => checked cw false false 16 (.setTempo ((argField cw).extractLsb' 0 16))
  | 0x11 => checked cw false false 7 (.setVol ((argField cw).extractLsb' 0 7))
  | 0x12 => checked cw false false 2 (.setMode ((argField cw).extractLsb' 0 2))
  | 0x20 => checked cw false false 0 .play
  | 0x21 => checked cw false false 0 .stop
  | 0x22 => checked cw false false 0 .tick
  | _ => .error .unassignedOp

/-- Put the five fields of R71 into a command word: `op ++ zero ++ ch ++ step ++ arg`. -/
def packFields (op : BitVec 8) (ch : BitVec 2) (step : BitVec 16) (arg : BitVec 32) : CmdWord :=
  op ++ 0#6 ++ ch ++ step ++ arg

/-- The word of a command (R73); none for a stage or RESET, which no word encodes (R74, R200). -/
def encode : Instr → Option CmdWord
  | .select ch step slot => some (packFields 0x01#8 ch.bits step (slot.setWidth 32))
  | .isSel ch step slot => some (packFields 0x02#8 ch.bits step (slot.setWidth 32))
  | .noteIdx ch step => some (packFields 0x03#8 ch.bits step 0#32)
  | .grow cnt => some (packFields 0x04#8 0#2 0#16 (cnt.setWidth 32))
  | .shrink cnt => some (packFields 0x05#8 0#2 0#16 (cnt.setWidth 32))
  | .getLen => some (packFields 0x06#8 0#2 0#16 0#32)
  | .newTrack => some (packFields 0x07#8 0#2 0#16 0#32)
  | .wrStep ch step mask => some (packFields 0x08#8 ch.bits step (mask.setWidth 32))
  | .rdStep ch step => some (packFields 0x09#8 ch.bits step 0#32)
  | .setTempo bpm => some (packFields 0x10#8 0#2 0#16 (bpm.setWidth 32))
  | .setVol vol => some (packFields 0x11#8 0#2 0#16 (vol.setWidth 32))
  | .setMode mode => some (packFields 0x12#8 0#2 0#16 (mode.setWidth 32))
  | .play => some (packFields 0x20#8 0#2 0#16 0#32)
  | .stop => some (packFields 0x21#8 0#2 0#16 0#32)
  | .tick => some (packFields 0x22#8 0#2 0#16 0#32)
  | .stepIdx | .note _ | .freqHw _ | .freqEt _ | .pulseA | .pulseB | .tri | .noise | .mixPulse | .mixTnd | .mixSum
  | .hpfA | .hpfB | .lpf | .gain | .reset => none

/-- The `match` and `mask` columns of R73, as the opcode table prints them; none for a row without a word. -/
def Instr.matchMask : Instr → Option (CmdWord × CmdWord)
  | .select _ _ _ => some (0x0100000000000000#64, 0xFFFC0000FFFFFFF0#64)
  | .isSel _ _ _ => some (0x0200000000000000#64, 0xFFFC0000FFFFFFF0#64)
  | .noteIdx _ _ => some (0x0300000000000000#64, 0xFFFC0000FFFFFFFF#64)
  | .grow _ => some (0x0400000000000000#64, 0xFFFFFFFFFFFF0000#64)
  | .shrink _ => some (0x0500000000000000#64, 0xFFFFFFFFFFFF0000#64)
  | .getLen => some (0x0600000000000000#64, 0xFFFFFFFFFFFFFFFF#64)
  | .newTrack => some (0x0700000000000000#64, 0xFFFFFFFFFFFFFFFF#64)
  | .wrStep _ _ _ => some (0x0800000000000000#64, 0xFFFC0000FFFF0000#64)
  | .rdStep _ _ => some (0x0900000000000000#64, 0xFFFC0000FFFFFFFF#64)
  | .setTempo _ => some (0x1000000000000000#64, 0xFFFFFFFFFFFF0000#64)
  | .setVol _ => some (0x1100000000000000#64, 0xFFFFFFFFFFFFFF80#64)
  | .setMode _ => some (0x1200000000000000#64, 0xFFFFFFFFFFFFFFFC#64)
  | .play => some (0x2000000000000000#64, 0xFFFFFFFFFFFFFFFF#64)
  | .stop => some (0x2100000000000000#64, 0xFFFFFFFFFFFFFFFF#64)
  | .tick => some (0x2200000000000000#64, 0xFFFFFFFFFFFFFFFF#64)
  | .stepIdx | .note _ | .freqHw _ | .freqEt _ | .pulseA | .pulseB | .tri | .noise | .mixPulse | .mixTnd | .mixSum
  | .hpfA | .hpfB | .lpf | .gain | .reset => none

/-- The instruction this decoder reads from an instruction whose bits are `w`, numbered as the opcode table numbers them: the
command word is one 64-bit unit, so bit `k` of `w` is bit `k` of the word (R71, R80); a command is never longer than `nbits`
= 64, and bits above `nbits` are 0. -/
def decodeTableWord (nbits w : Nat) : Option Instr :=
  let v := w % 2 ^ nbits
  if v < 2 ^ 64 then
    match decode (BitVec.ofNat 64 v) with
    | .ok i => some i
    | .error _ => none
  else none

end Sys2Proof
end

