-- ==== Sys2Proof/Machine/Events.lean ====
section
/-! DEFINITION. How the next event is taken from those waiting (R57, R186) and what an illegal word answers (R76). -/

namespace Sys2Proof.Machine

/-- The state with the remaining events waiting. -/
def State.withInbox (s : State) (events : List Event) : State := { s with inbox := events }

/-- A word that is not a command: "the state is unchanged and the response is `(ERR_ILLEGAL, 0)`" (R76). -/
def illegalWord (s : State) : Host.Outcome State Fault Refusal := reject s .errIllegal

/-- The command word that an opcode-table word of `nbits` bits is: bit `k` of it is bit `k` of `w`, and bits above are 0 (R71). -/
def tableWord (nbits w : Nat) : CmdWord := BitVec.ofNat 64 (w % 2 ^ nbits)

end Sys2Proof.Machine
end

