-- ==== Sys2Proof/Machine/Step.lean ====
section
/-! DEFINITION. One step: the block takes the next event of the total order (R57) and performs the whole operation atomically
(R12). With no event waiting it "does nothing until a command arrives" (R200). DESIGN CHOICE, safe, log entry 1. -/

namespace Sys2Proof.Machine

def step (s : State) : Host.Outcome State Fault Refusal :=
  match s.inbox with
  | [] => .next s
  | .reset :: rest => exec .reset (s.withInbox rest)
  | .command cw :: rest =>
    match decode cw with
    | .ok i => exec i (s.withInbox rest)
    | .error _ => illegalWord (s.withInbox rest)

/-- The command word arrives at the port as the next event. DESIGN CHOICE, safe, log entry 1: a program comes from outside. -/
def State.withFetchWord (s : State) (nbits w : Nat) : State := s.withInbox (.command (tableWord nbits w) :: s.inbox)

end Sys2Proof.Machine
end

