-- ==== Sys2Proof/Machine/Pseudo.lean ====
section
/-! DEFINITION. The pseudo-operations and their expansions (R82). They have no word of their own; `len` is the current `LEN`, which
the host has from GETLEN. -/

namespace Sys2Proof.Machine

/-- The pseudo-operations of R82 that expand to commands. The spec gives `RESIZE`'s operand no range; DESIGN CHOICE (log entry 21,
safe): `newLength` is 16 bits, the width of `cnt` (R72), so its values are the lengths 0..`LMAX` that a track can have. A `RESIZE` to
a length above 65535, whose GROW would answer ERR_RANGE where `cnt` can hold it, is not written as a `Pseudo`; the GROW itself is
modelled for every `cnt`. -/
inductive Pseudo where
  | resize (newLength : BitVec 16)
  | ticks (k : Nat)
  | restart
  deriving DecidableEq, Repr

/-- The expansion of a pseudo-operation (R82, C2). -/
def Pseudo.expand (len : Nat) : Pseudo → List Instr
  | .resize newLength =>
    if newLength.toNat = len then []
    else if len < newLength.toNat then [.grow (BitVec.ofNat 16 (newLength.toNat - len))]
    else [.shrink (BitVec.ofNat 16 (len - newLength.toNat))]
  | .ticks k => List.replicate k .tick
  | .restart => [.stop, .play]

/-- Operations one after the other, stopping at a fault or a refusal. -/
def runAll : List Instr → State → Host.Outcome State Fault Refusal
  | [], s => .next s
  | i :: rest, s => andThen (exec i s) (runAll rest)

end Sys2Proof.Machine
end

