-- ==== Sys2Proof/Safety.lean ====
section
/-! DEFINITION. What counts as a good state and a safe run, in the terms the statements use: the invariant of the machine and the bounds
of the filter chain. -/

namespace Sys2Proof.Machine

/-- The invariant every operation keeps from RESET on. -/
structure State.Inv (s : State) : Prop where
  /-- the live track is in canonical form (R29, R50, R51) -/
  liveWf : s.live.wf
  /-- the snapshot is in canonical form -/
  snapWf : s.snap.wf
  /-- reserved bits of every live word are 0 (R70, R100 (c)) -/
  liveReserved : s.live.reservedClear
  /-- reserved bits of every snapshot word are 0 -/
  snapReserved : s.snap.reservedClear
  /-- `VOLUME` is 0..100; "101..127 cannot be written" (R22) -/
  volumeLegal : s.volume.toNat ≤ 100
  /-- `S_VOLUME` is a copy of a legal `VOLUME`, or unspecified within its type (R20) -/
  sVolumeLegal : s.sVolume.toNat ≤ 100
  /-- "`CANCEL = 1` implies `RUN = Playing`" (R23) -/
  cancelPlaying : s.cancel = true → s.run = .playing
  /-- `N_END = 800 * S_LEN * S_TEMPO` (R24, R167); after RESET both are 0 (R32) -/
  renderLength : s.nEnd = renderLength s.snap.len s.sTempo.toNat
  /-- the counter never passes the end of the render (R24) -/
  counter : s.n ≤ s.nEnd
  /-- nothing of the datapath is kept between operations (R33) -/
  datapathClear : s.dp = Datapath.cleared

/-- Bounds on the filter registers that every step keeps: the mixer's output lies in [-0.0332, 0.0549] (R142), a high-pass stage's
`prevOut - prevIn` in the mirrored range of its input, and the low-pass stage's register within 0.78. The chain's stages are
linked: each stage's output is the next stage's input in the same TICK (R148). -/
structure State.FiltersBounded (s : State) : Prop where
  aInLow : (-332 / 10000 : V) ≤ s.hpa.prevIn
  aInHigh : s.hpa.prevIn ≤ (549 / 10000 : V)
  aLow : (-549 / 10000 : V) ≤ s.hpa.prevOut - s.hpa.prevIn
  aHigh : s.hpa.prevOut - s.hpa.prevIn ≤ (332 / 10000 : V)
  linkAB : s.hpb.prevIn = s.hpa.prevOut
  bLow : (-881 / 10000 : V) ≤ s.hpb.prevOut - s.hpb.prevIn
  bHigh : s.hpb.prevOut - s.hpb.prevIn ≤ (881 / 10000 : V)
  linkBL : s.lp.prevIn = s.hpb.prevOut
  lLow : (-78 / 100 : V) ≤ s.lp.prevOut
  lHigh : s.lp.prevOut ≤ (78 / 100 : V)

/-- The next event is a WRSTEP command (R100 (b)). -/
def State.nextIsWrStep (s : State) : Prop :=
  ∃ cw rest ch step mask, s.inbox = .command cw :: rest ∧ decode cw = .ok (.wrStep ch step mask)

end Sys2Proof.Machine
end

