-- ==== Sys2Proof/Certificates/Slice0/Obligations.lean ====
section
/-! DEFINITION. The statements for the provers, by the spec's rules: encoding, reset, step model, configuration, playback, the stages
of TICK, and the invariants of the whole machine. A result statement's conclusion is the equation `exec i s = .next t`, with all
that `t` holds, so it is the instruction's completion statement and its frame at once: a record update `{ s with … }` changes
the fields it names and no other, and the words of a memory are compared through `Memory.read`. -/

open Sys2Proof Sys2Proof.Machine

namespace Sys2Proof.Claims

/-- The response `(OK, w)`. -/
abbrev okWord (w : RespWord) : Option Response := some ⟨.ok, .word w⟩

/-- The response `(status, 0)` of an error (R75, R180). -/
abbrev errorResp (e : Status) : Option Response := some ⟨e, .word 0#32⟩

/-- `ERR_RANGE` is produced by the operation at this state: the rows of R182's table for code 2. -/
def rangeCondition (s : State) : Instr → Prop
  | .select _ step slot => s.live.len ≤ step.toNat ∨ nslots ≤ slot.toNat
  | .isSel _ step slot => s.live.len ≤ step.toNat ∨ nslots ≤ slot.toNat
  | .noteIdx _ step => s.live.len ≤ step.toNat
  | .wrStep _ step _ => s.live.len ≤ step.toNat
  | .rdStep _ step => s.live.len ≤ step.toNat
  | .grow cnt => 65535 < s.live.len + cnt.toNat
  | .setVol vol => 100 < vol.toNat
  | _ => False

/-- `ERR_SHRINK` is produced by the operation at this state: the row of R182's table for code 1. -/
def shrinkCondition (s : State) : Instr → Prop
  | .shrink cnt => (s.live.len : Int) - cnt.toNat < 0
  | _ => False

/-- The slot `j` is the lowest set bit of the word. -/
def lowestSet (m : StepWord) (j : Nat) : Prop := m.getLsbD j = true ∧ ∀ k, k < j → m.getLsbD k = false

/-- The note of a word (R78): -1 for a zero word, else `NOTE_BASE[ch]` plus the lowest set bit. -/
def noteOfWord (ch : Channel) (m : StepWord) (note : Int) : Prop :=
  (m = 0#16 → note = -1) ∧ ∀ j, lowestSet m j → note = (Config.noteBase ch.num).val + j

/-- The operations that edit only the live state: the step model and the configuration. -/
def editsLive : Instr → Bool
  | .select _ _ _ | .isSel _ _ _ | .noteIdx _ _ | .grow _ | .shrink _ | .getLen | .newTrack | .wrStep _ _ _ | .rdStep _ _
  | .setTempo _ | .setVol _ | .setMode _ => true
  | _ => false

/-- Apply a function to the next state of an outcome. -/
def mapNext (f : State → State) : Host.Outcome State Fault Refusal → Host.Outcome State Fault Refusal
  | .next s => .next (f s)
  | .fault r => .fault r
  | .refused r => .refused r

/-- The state with everything the host edits, and the model's own inbox and last response, replaced. -/
def withLiveSide (s : State) (live : Memory) (tempo : BitVec 16) (volume : BitVec 7) (mode : BitVec 2) (inbox : List Event) : State :=
  { s with live := live, tempo := tempo, volume := volume, mode := mode, inbox := inbox }

/-- The frequency stages TICK executes once the notes are known: for ch = 0..2 with a note, the one `S_MODE.FREQ_ET` selects. -/
def freqInstrs (s : State) : List Instr :=
  [Channel.pulseA, Channel.pulseB, Channel.triangle].flatMap fun ch =>
    if s.dp.note.get ch = -1 then [] else if s.sMode.getLsbD 0 then [.freqEt ch] else [.freqHw ch]

/-- The lines of TICK's pseudocode between the ending branch and `n <- n + 1` (R165), as a relation between the state before and the
values the stages compute. -/
structure SampleOf (s : State) (d : Datapath) : Prop where
  /-- STEPIDX (R120) -/
  step : d.step = ((min (s.n * s.sTempo.toNat / 2880000) (s.snap.len - 1) : Nat) : Int)
  /-- NOTE for ch = 0..3 (R121) -/
  note : ∀ ch, ∃ m, s.snap.read ch d.step.toNat = some m ∧ noteOfWord ch m (d.note.get ch)
  /-- the selected strategy for the pitched channels that have a note (R114, R122) -/
  freq : ∀ ch, ch ≠ .noise → d.note.get ch ≠ -1 →
    d.freq.get ch = if s.sMode.getLsbD 0 then freqEt (d.note.get ch) else freqHw (d.note.get ch)
  /-- PULSE.A (R124) -/
  p1 : d.p1 = if d.note.pulseA ≠ -1 ∧ 0 < d.freq.pulseA then pulse s.n d.freq.pulseA else 0
  /-- PULSE.B (R125) -/
  p2 : d.p2 = if d.note.pulseB ≠ -1 ∧ 0 < d.freq.pulseB then pulse s.n d.freq.pulseB else 0
  /-- TRI, folded mode (R126) -/
  t : s.sMode.getLsbD 1 = false → d.t.toV =
    if d.note.triangle ≠ -1 ∧ 0 < d.freq.triangle then -1 + 2 * ((triIndex s.n d.freq.triangle).natAbs : V) / 15 else 0
  /-- TRI, legacy mode, where the index has an entry (R126) -/
  tLegacy : s.sMode.getLsbD 1 = true → (d.note.triangle ≠ -1 ∧ 0 < d.freq.triangle → 0 ≤ triIndex s.n d.freq.triangle) → d.t.toV =
    if d.note.triangle ≠ -1 ∧ 0 < d.freq.triangle then -1 + 2 * (triIndex s.n d.freq.triangle : V) / 15 else 0
  /-- NOISE: silence, or the entry of a draw (R127) -/
  nz : (d.note.noise = -1 → d.nz.toV = 0) ∧ (d.note.noise ≠ -1 → d.nz = .level (Config.draw s.free))
  /-- MIX.PULSE (R140) -/
  pulseOut : d.pulseOut = if d.p1.val + d.p2.val = 0 then 0 else (9588 / 100) / (8128 / ((d.p1.val + d.p2.val : Nat) : V) + 100)
  /-- MIX.TND (R141) -/
  tndOut : d.tndOut = if d.t.toV / 8227 + d.nz.toV / 12241 = 0 then 0
    else (15979 / 100) / (1 / (d.t.toV / 8227 + d.nz.toV / 12241) + 100)
  /-- MIX.SUM (R142) -/
  mixed : d.mixed = d.pulseOut + d.tndOut
  /-- HPF.A (R145) -/
  y1 : d.y1 = s.hpa.prevOut * (996039 / 1000000) + d.mixed - s.hpa.prevIn
  /-- HPF.B (R146) -/
  y2 : d.y2 = s.hpb.prevOut * (999835 / 1000000) + d.y1 - s.hpb.prevIn
  /-- LPF (R147) -/
  y3 : d.y3 = (d.y2 - s.lp.prevOut) * (815686 / 1000000)
  /-- GAIN (R166) -/
  out : d.out = d.y3 * (s.sVolume.toNat : V) / 100

end Sys2Proof.Claims

open Sys2Proof.Claims

/-! ## Encoding -/

/-- Decoding the word of any command gives the command back, with every operand at every value; and exactly the commands have a
word (R71 to R73, R74). -/
def Obligations.DecodeOfEncodeIsIdentity : Prop :=
  (∀ i w, encode i = some w → decode w = .ok i) ∧ ∀ i : Instr, (encode i).isSome = i.isCommand

/-- A word that decodes is the word of what it decodes to: no two words are one operation, and no bit is ignored (R73, R76). -/
def Obligations.EncodeOfDecodeIsIdentity : Prop :=
  ∀ cw i, decode cw = .ok i → encode i = some cw ∧ i.wellFormed = true

/-- R73: "a word `cw` is the operation iff `cw AND mask = match`", for each of the fifteen rows. -/
def Obligations.DecodeFollowsMatchAndMask : Prop :=
  ∀ (i : Instr) m k, i.matchMask = some (m, k) → ∀ cw, cw &&& k = m ↔ ∃ j, decode cw = .ok j ∧ j.matchMask = some (m, k)

/-- A few words of the spec's programs and the operations they are (R71 to R73; vectors of `95_test_vectors.md`). -/
def Obligations.ProgramWordsDecode : Prop :=
  decode 0x010000020000000C#64 = .ok (.select .pulseA 2#16 12#4) ∧
  decode 0x0303000000000000#64 = .ok (.noteIdx .noise 0#16) ∧
  decode 0x080300070000F011#64 = .ok (.wrStep .noise 7#16 0xF011#16) ∧
  decode 0x10000000000000B4#64 = .ok (.setTempo 180#16) ∧
  decode 0x1100000000000065#64 = .ok (.setVol 101#7) ∧
  decode 0x2200000000000000#64 = .ok .tick

/-- R76: a word that matches no row of R73 leaves the state unchanged and answers `(ERR_ILLEGAL, 0)`; only the waiting event is used
up. -/
def Obligations.IllegalWordChangesNothing : Prop :=
  ∀ s cw rest, s.inbox = .command cw :: rest → (∀ (i : Instr) m k, i.matchMask = some (m, k) → cw &&& k ≠ m) →
    step s = .next { s with inbox := rest, resp := errorResp .errIllegal }

/-- R76: an unassigned `op`, a non-zero bit in the zero field, or a non-zero bit in an operand field the operation does not use makes a
word illegal. -/
def Obligations.MustBeZeroFieldsAreChecked : Prop :=
  ∀ cw, ((opField cw).toNat ∉ [0x01, 0x02, 0x03, 0x04, 0x05, 0x06, 0x07, 0x08, 0x09, 0x10, 0x11, 0x12, 0x20, 0x21, 0x22] ∨
      zeroField cw ≠ 0#6 ∨
      ((opField cw).toNat ∈ [0x04, 0x05, 0x06, 0x07, 0x10, 0x11, 0x12, 0x20, 0x21, 0x22] ∧
        (chField cw ≠ 0#2 ∨ stepField cw ≠ 0#16)) ∨
      ((opField cw).toNat ∈ [0x01, 0x02] ∧ 16 ≤ (argField cw).toNat) ∨
      ((opField cw).toNat ∈ [0x04, 0x05, 0x08, 0x10] ∧ 65536 ≤ (argField cw).toNat) ∨
      ((opField cw).toNat = 0x11 ∧ 128 ≤ (argField cw).toNat) ∨
      ((opField cw).toNat = 0x12 ∧ 4 ≤ (argField cw).toNat) ∨
      ((opField cw).toNat ∈ [0x03, 0x06, 0x07, 0x09, 0x20, 0x21, 0x22] ∧ argField cw ≠ 0#32)) ↔
    ∃ e, decode cw = .error e

/-- A step runs the operation that the next event is: the decoded command, RESET, or, with no event waiting, nothing (R57, R200). What
`withFetchWord` places is run by the very next step. -/
def Obligations.StepRunsTheNextOperation : Prop :=
  (∀ s cw rest i, s.inbox = .command cw :: rest → decode cw = .ok i → step s = exec i { s with inbox := rest }) ∧
  (∀ s rest, s.inbox = .reset :: rest → step s = exec .reset { s with inbox := rest }) ∧
  (∀ s, s.inbox = [] → step s = .next s) ∧
  (∀ s nbits w i, decodeTableWord nbits w = some i → step (s.withFetchWord nbits w) = exec i s)

/-! ## Reset -/

/-- R200, R32: RESET, at any state, leaves the track empty, Idle, `CANCEL = 0`, `n = 0`, `N_END = 0`, the snapshot empty and all six
filter registers 0; what R32 leaves unspecified is within its range. -/
def Obligations.ResetLeavesBlockEmptyAndIdle : Prop :=
  ∀ s, ∃ t, exec .reset s = .next t ∧ t.live.len = 0 ∧ (∀ ch i, t.live.read ch i = none) ∧ t.run = .idle ∧ t.cancel = false ∧
    t.n = 0 ∧ t.nEnd = 0 ∧ t.snap.len = 0 ∧ (∀ ch i, t.snap.read ch i = none) ∧
    t.hpa = ⟨0, 0⟩ ∧ t.hpb = ⟨0, 0⟩ ∧ t.lp = ⟨0, 0⟩ ∧ t.volume.toNat ≤ 100

/-- The state after reset is what a RESET leaves, and with no event waiting the block does nothing (R32, R200). -/
def Obligations.ResetStateWaitsForCommands : Prop :=
  State.reset.live = Memory.empty ∧ State.reset.run = .idle ∧ State.reset.cancel = false ∧ State.reset.n = 0 ∧
  State.reset.nEnd = 0 ∧ State.reset.snap = Memory.empty ∧ State.reset.hpa = ⟨0, 0⟩ ∧ State.reset.hpb = ⟨0, 0⟩ ∧
  State.reset.lp = ⟨0, 0⟩ ∧ step State.reset = .next State.reset

/-! ## The step model -/

/-- R90: SELECT clears the word if the slot's bit was set and leaves exactly that bit otherwise; every other word of the track stays,
and an operand out of range changes nothing. -/
def Obligations.SelectTogglesExclusively : Prop :=
  ∀ s ch step slot, s.live.wf →
    (step.toNat < s.live.len ∧ slot.toNat < nslots → ∃ m live, s.live.read ch step.toNat = some m ∧
      exec (.select ch step slot) s = .next { s with live := live, resp := okWord 0#32 } ∧ live.len = s.live.len ∧
      live.read ch step.toNat = some (if m.getLsbD slot.toNat then 0#16 else 1#16 <<< slot.toNat) ∧
      ∀ ch' i, ch' ≠ ch ∨ i ≠ step.toNat → live.read ch' i = s.live.read ch' i) ∧
    (s.live.len ≤ step.toNat ∨ nslots ≤ slot.toNat →
      exec (.select ch step slot) s = .next { s with resp := errorResp .errRange })

/-- R90, corner case (c): SELECT `i` then SELECT `j` with `i ≠ j` leaves only `j` set; SELECT `i` twice restores a word that was 0 or
`1 << i`, and turns a word with bit `i` clear into `1 << i` and then 0. -/
def Obligations.SelectTwiceAndSelectOther : Prop :=
  ∀ s ch step i j m, s.live.wf → s.live.read ch step.toNat = some m → i.toNat < nslots → j.toNat < nslots →
    (i ≠ j → ∃ t, runAll [.select ch step i, .select ch step j] s = .next t ∧
      t.live.read ch step.toNat = some (1#16 <<< j.toNat)) ∧
    (m = 0#16 ∨ m = 1#16 <<< i.toNat → ∃ t, runAll [.select ch step i, .select ch step i] s = .next t ∧
      t.live.read ch step.toNat = some m) ∧
    (m.getLsbD i.toNat = false → ∃ t, runAll [.select ch step i, .select ch step i] s = .next t ∧
      t.live.read ch step.toNat = some 0#16)

/-- R91: ISSEL answers 1 iff the word equals `1 << slot`; nothing but the response changes. A word with two or more bits set answers 0
for every slot, also for the slots whose bits are set. -/
def Obligations.IsSelTestsEquality : Prop :=
  ∀ s ch step slot,
    (step.toNat < s.live.len ∧ slot.toNat < nslots → ∃ m, s.live.read ch step.toNat = some m ∧
      exec (.isSel ch step slot) s = .next { s with resp := okWord (if m = 1#16 <<< slot.toNat then 1#32 else 0#32) }) ∧
    (s.live.len ≤ step.toNat ∨ nslots ≤ slot.toNat →
      exec (.isSel ch step slot) s = .next { s with resp := errorResp .errRange }) ∧
    (∀ m i j, s.live.read ch step.toNat = some m → i ≠ j → m.getLsbD i = true → m.getLsbD j = true → slot.toNat < nslots →
      exec (.isSel ch step slot) s = .next { s with resp := okWord 0#32 })

/-- R92: NOTEIDX answers `0xFFFFFFFF` for a zero word, else `NOTE_BASE[ch]` plus the lowest set bit. -/
def Obligations.NoteIdxAnswersLowestSlot : Prop :=
  ∀ s ch step,
    (step.toNat < s.live.len → ∃ m v, s.live.read ch step.toNat = some m ∧
      exec (.noteIdx ch step) s = .next { s with resp := okWord v } ∧ (m = 0#16 → v = 0xFFFFFFFF#32) ∧
      ∀ j, lowestSet m j → v.toNat = (Config.noteBase ch.num).val + j) ∧
    (s.live.len ≤ step.toNat → exec (.noteIdx ch step) s = .next { s with resp := errorResp .errRange })

/-- R94: GROW appends zero words to every channel and keeps the others; past `LMAX` it changes nothing. -/
def Obligations.GrowAppendsEmptySteps : Prop :=
  ∀ s cnt, s.live.wf →
    (s.live.len + cnt.toNat ≤ 65535 → ∃ live, exec (.grow cnt) s = .next { s with live := live, resp := okWord 0#32 } ∧
      live.len = s.live.len + cnt.toNat ∧ (∀ ch i, i < s.live.len → live.read ch i = s.live.read ch i) ∧
      ∀ ch i, s.live.len ≤ i → i < s.live.len + cnt.toNat → live.read ch i = some 0#16) ∧
    (65535 < s.live.len + cnt.toNat → exec (.grow cnt) s = .next { s with resp := errorResp .errRange })

/-- R95: SHRINK removes the last steps of every channel; below zero it answers ERR_SHRINK and changes nothing; to exactly 0 it
succeeds. Words removed are lost: a later GROW brings back zero words. -/
def Obligations.ShrinkRemovesLastSteps : Prop :=
  ∀ s cnt, s.live.wf →
    (cnt.toNat ≤ s.live.len → ∃ live, exec (.shrink cnt) s = .next { s with live := live, resp := okWord 0#32 } ∧
      live.len = s.live.len - cnt.toNat ∧ (∀ ch i, i < s.live.len - cnt.toNat → live.read ch i = s.live.read ch i) ∧
      ∀ ch i, s.live.len - cnt.toNat ≤ i → live.read ch i = none) ∧
    (s.live.len < cnt.toNat → exec (.shrink cnt) s = .next { s with resp := errorResp .errShrink }) ∧
    (∀ ch i, cnt.toNat ≤ s.live.len → s.live.len - cnt.toNat ≤ i → i < s.live.len →
      ∃ t, runAll [.shrink cnt, .grow cnt] s = .next t ∧ t.live.len = s.live.len ∧ t.live.read ch i = some 0#16)

/-- R96: GETLEN answers the length, which its 32 bits hold exactly. -/
def Obligations.GetLenAnswersLength : Prop :=
  ∀ s, s.live.wf → ∃ v : RespWord, exec .getLen s = .next { s with resp := okWord v } ∧ v.toNat = s.live.len

/-- R97: NEWTRACK replaces the track by an empty one and touches nothing else. -/
def Obligations.NewTrackEmptiesOnlyTheTrack : Prop :=
  ∀ s, ∃ live, exec .newTrack s = .next { s with live := live, resp := okWord 0#32 } ∧ live.len = 0 ∧
    ∀ ch i, live.read ch i = none

/-- R98: WRSTEP stores the word with its reserved bits dropped; every other word stays. -/
def Obligations.WrStepStoresSlotBits : Prop :=
  ∀ s ch step mask, s.live.wf →
    (step.toNat < s.live.len → ∃ live w, exec (.wrStep ch step mask) s = .next { s with live := live, resp := okWord 0#32 } ∧
      live.len = s.live.len ∧ live.read ch step.toNat = some w ∧
      (∀ b, w.getLsbD b = (mask.getLsbD b && decide (b < nslots))) ∧
      ∀ ch' i, ch' ≠ ch ∨ i ≠ step.toNat → live.read ch' i = s.live.read ch' i) ∧
    (s.live.len ≤ step.toNat → exec (.wrStep ch step mask) s = .next { s with resp := errorResp .errRange })

/-- R99: RDSTEP answers the word, zero-extended. -/
def Obligations.RdStepAnswersWord : Prop :=
  ∀ s ch step,
    (step.toNat < s.live.len → ∃ (m : StepWord) (v : RespWord), s.live.read ch step.toNat = some m ∧
      exec (.rdStep ch step) s = .next { s with resp := okWord v } ∧ v.toNat = m.toNat) ∧
    (s.live.len ≤ step.toNat → exec (.rdStep ch step) s = .next { s with resp := errorResp .errRange })

/-! ## Errors -/

/-- R182: which command answers ERR_RANGE and ERR_SHRINK, "exactly when"; no command answers ERR_ILLEGAL. -/
def Obligations.ErrorStatusesExactlyWhen : Prop :=
  ∀ s i, i.isCommand = true → (∀ t, exec i s = .next t →
    ((∃ v, t.resp = some ⟨.errRange, v⟩) ↔ rangeCondition s i) ∧ ((∃ v, t.resp = some ⟨.errShrink, v⟩) ↔ shrinkCondition s i) ∧
    ¬ ∃ v, t.resp = some ⟨.errIllegal, v⟩)

/-- R180, R100 (d): an operation that answers an error changes nothing but the response, whose value is 0. -/
def Obligations.FailedOperationChangesNothing : Prop :=
  ∀ s i t e v, i.isCommand = true → exec i s = .next t → t.resp = some ⟨e, v⟩ → e ∈ [Status.errShrink, .errRange, .errIllegal] →
    v = .word 0#32 ∧ t = { s with resp := t.resp }

/-! ## Configuration -/

/-- R160, R161, R162: SETTEMPO, SETVOL and SETMODE write their register and nothing else; SETVOL 101..127 answers ERR_RANGE and changes
nothing. -/
def Obligations.ConfigurationWritesItsRegister : Prop :=
  (∀ s bpm, exec (.setTempo bpm) s = .next { s with tempo := bpm, resp := okWord 0#32 }) ∧
  (∀ s vol, vol.toNat ≤ 100 → exec (.setVol vol) s = .next { s with volume := vol, resp := okWord 0#32 }) ∧
  (∀ s vol, 100 < vol.toNat → exec (.setVol vol) s = .next { s with resp := errorResp .errRange }) ∧
  (∀ s mode, exec (.setMode mode) s = .next { s with mode := mode, resp := okWord 0#32 })

/-! ## Playback -/

/-- R163, R167: PLAY ends an active render, copies the live state, zeroes the counter and the filters and sets the length of the
render. `CANCEL` is 0 on exit from every state that meets R23's invariant. The last clause, that an Idle block with `CANCEL = 1`, which
no run reaches, keeps the flag, is the model's own reading of R163's pseudocode (DEDUCED, log entry 18), not the rule's "0 on exit". -/
def Obligations.PlayStartsRenderOfLiveState : Prop :=
  ∀ s, ∃ c, exec .play s = .next { s with
      snap := s.live, sTempo := s.tempo, sVolume := s.volume, sMode := s.mode,
      n := 0, nEnd := 800 * s.live.len * s.tempo.toNat, hpa := ⟨0, 0⟩, hpb := ⟨0, 0⟩, lp := ⟨0, 0⟩,
      run := .playing, cancel := c, resp := okWord 0#32 } ∧
    ((s.cancel = true → s.run = .playing) → c = false) ∧ (s.run = .playing → c = false) ∧ (s.run = .idle → c = s.cancel)

/-- R164: STOP raises `CANCEL` while Playing and does nothing while Idle. -/
def Obligations.StopRaisesCancel : Prop :=
  ∀ s, (s.run = .playing → exec .stop s = .next { s with cancel := true, resp := okWord 0#32 }) ∧
    (s.run = .idle → exec .stop s = .next { s with resp := okWord 0#32 })

/-- R165: a TICK in Idle answers END and changes nothing; a TICK of a stopped or finished render answers END and makes the block
Idle, and "does not touch `n` or the filter registers". -/
def Obligations.TickWithoutSampleAnswersEnd : Prop :=
  ∀ s, (s.run = .idle → exec .tick s = .next { s with resp := some ⟨.endOfRender, .sample 0⟩ }) ∧
    (s.run = .playing → s.cancel = true ∨ s.nEnd ≤ s.n →
      exec .tick s = .next { s with run := .idle, cancel := false, resp := some ⟨.endOfRender, .sample 0⟩ })

/-- R165, R126: a TICK of a render in flight computes the stages' values, delivers the sample, advances `n` and the six filter
registers, and changes nothing else, but that the next free draw is another one after a sample with noise. The one exception is the
legacy triangle: where it is active with a negative index the TICK is refused. -/
def Obligations.TickDeliversOneSample : Prop :=
  ∀ s, s.Inv → s.run = .playing → s.cancel = false → s.n < s.nEnd → ∃ d, SampleOf s d ∧
    let undefinedTriangle := s.sMode.getLsbD 1 = true ∧ d.note.triangle ≠ -1 ∧ 0 < d.freq.triangle ∧ triIndex s.n d.freq.triangle < 0
    (undefinedTriangle → exec .tick s = .refused .legacyTriangleNegativeIndex) ∧
    (¬ undefinedTriangle → exec .tick s = .next { s with
      n := s.n + 1, hpa := ⟨d.mixed, d.y1⟩, hpb := ⟨d.y1, d.y2⟩, lp := ⟨d.y2, d.y3⟩,
      free := if d.note.noise = -1 then s.free else s.free + 1,
      resp := some ⟨.ok, .sample d.out⟩ })

/-- TICK completes: a render in flight delivers a sample and counts it, in the folded mode whatever the notes are, and in the legacy
mode where the triangle has no note (R165, R126). -/
def Obligations.TickCompletesWithoutLegacyTriangle : Prop :=
  ∀ s, s.Inv → s.run = .playing → s.cancel = false → s.n < s.nEnd →
    (s.sMode.getLsbD 1 = false ∨
      s.snap.read .triangle (min (s.n * s.sTempo.toNat / 2880000) (s.snap.len - 1)) = some 0#16) →
    ∃ t x, exec .tick s = .next t ∧ t.resp = some ⟨.ok, .sample x⟩ ∧ t.n = s.n + 1 ∧ t.run = .playing ∧ t.snap = s.snap

/-- R74: a TICK that produces a sample executes every stage once, in the order given, one after the other, and then delivers.
Both sides of the equation take one and the same noise draw (DESIGN CHOICE, log entry 4). -/
def Obligations.TickRunsStagesInOrder : Prop :=
  ∀ s, s.Inv → s.run = .playing → s.cancel = false → s.n < s.nEnd →
    exec .tick s =
      andThen (runAll [.stepIdx, .note .pulseA, .note .pulseB, .note .triangle, .note .noise] s) fun a =>
      andThen (runAll (freqInstrs a ++ [.pulseA, .pulseB, .tri, .noise, .mixPulse, .mixTnd, .mixSum, .hpfA, .hpfB, .lpf, .gain]) a)
        fun b => .next { b with n := b.n + 1, dp := Datapath.cleared, resp := some ⟨.ok, .sample b.dp.out⟩ }

/-- An equal-tempered legacy render (`S_MODE` with both bits set) of an active triangle is refused at its very first sample: `n = 0`
gives `k = -15` (R126, U3, V48). With FREQ_ET = 1 the frequency is positive for every note; with FREQ.HW it depends on the open
`NOTE_BASE`, and that form is the refused clause of TickDeliversOneSample with TriIndexRoundsHalfAwayFromZero. -/
def Obligations.LegacyTriangleRefusedAtFirstSample : Prop :=
  ∀ s m, s.Inv → s.run = .playing → s.cancel = false → s.n = 0 → 0 < s.nEnd → s.sMode.getLsbD 1 = true → s.sMode.getLsbD 0 = true →
    s.snap.read .triangle 0 = some m → m ≠ 0#16 → exec .tick s = .refused .legacyTriangleNegativeIndex

/-- R165 (d), R167: from PLAY, exactly `800 * LEN * TEMPO` TICKs answer OK in a render that is not stopped; the next one answers END and
the block is Idle. For renders with the folded triangle: a legacy render, which a TICK may refuse (R126, U3, log entry 10), is the
subject of TickDeliversOneSample and LegacyTriangleRefusedAtFirstSample. -/
def Obligations.RenderDeliversExactlyItsLength : Prop :=
  ∀ s, s.Inv → s.mode.getLsbD 1 = false → ∃ p, exec .play s = .next p ∧
    (∀ k, k < 800 * s.live.len * s.tempo.toNat → ∃ t x, runAll (List.replicate (k + 1) .tick) p = .next t ∧
      t.resp = some ⟨.ok, .sample x⟩ ∧ t.run = .playing ∧ t.n = k + 1) ∧
    ∃ t, runAll (List.replicate (800 * s.live.len * s.tempo.toNat + 1) .tick) p = .next t ∧
      t.resp = some ⟨.endOfRender, .sample 0⟩ ∧ t.run = .idle ∧ t.n = 800 * s.live.len * s.tempo.toNat

/-- R164, R165 (a): after a STOP of a render no further sample of it is delivered: the next TICK answers END, and `n` and the filters keep
their values. -/
def Obligations.StopThenTickEndsRender : Prop :=
  ∀ s, s.run = .playing → ∃ t, runAll [.stop, .tick] s = .next t ∧ t.resp = some ⟨.endOfRender, .sample 0⟩ ∧ t.run = .idle ∧
    t.cancel = false ∧ t.n = s.n ∧ t.hpa = s.hpa ∧ t.hpb = s.hpb ∧ t.lp = s.lp

/-- R163 (b), R82: STOP then PLAY leaves exactly what PLAY alone leaves: the stale flag does not cancel the new render, and an idle STOP
leaves no trace. The free values that the two runs would draw next are the same ones in the model, which R30 forbids assuming of the
hardware (DESIGN CHOICE, log entry 4). -/
def Obligations.StopThenPlayIsPlay : Prop :=
  ∀ s, s.Inv → runAll (Pseudo.expand s.live.len .restart) s = exec .play s ∧ ∃ t, exec .play s = .next t ∧ t.cancel = false

/-- R82: the expansion of `RESIZE newLength` brings the track to that length, keeps the steps that stay and adds empty ones.
`newLength` is 16 bits wide here: that is the model's choice, the spec gives it no range (DESIGN CHOICE, log entry 21). -/
def Obligations.ResizeReachesLength : Prop :=
  ∀ s (len : BitVec 16), s.live.wf → ∃ t, runAll (Pseudo.expand s.live.len (.resize len)) s = .next t ∧ t.live.len = len.toNat ∧
    (∀ ch i, i < s.live.len → i < len.toNat → t.live.read ch i = s.live.read ch i) ∧
    ∀ ch i, s.live.len ≤ i → i < len.toNat → t.live.read ch i = some 0#16

/-! ## The stages -/

/-- R120: STEPIDX is the step of sample `n`, held at the last step. -/
def Obligations.StepIdxIsClampedFloor : Prop :=
  ∀ s, 0 < s.snap.len → exec .stepIdx s = .next { s with dp := { s.dp with
    step := ((min (s.n * s.sTempo.toNat / 2880000) (s.snap.len - 1) : Nat) : Int) } }

/-- R169: within a render the step index never decreases and rises by at most one per sample. -/
def Obligations.StepIndexRisesByAtMostOne : Prop :=
  ∀ s, 0 < s.snap.len → ∃ t u, exec .stepIdx s = .next t ∧ exec .stepIdx { s with n := s.n + 1 } = .next u ∧
    t.dp.step ≤ u.dp.step ∧ u.dp.step ≤ t.dp.step + 1

/-- R121: NOTE puts the note of the channel's word at the step index into `note[ch]`. An index that names no word of the snapshot (R50)
is met only in states that no run reaches; there the stage faults by name. -/
def Obligations.NoteDecodesSnapshotWord : Prop :=
  ∀ s ch, (0 ≤ s.dp.step ∧ s.dp.step.toNat < s.snap.len → ∃ m v, s.snap.read ch s.dp.step.toNat = some m ∧ noteOfWord ch m v ∧
      exec (.note ch) s = .next { s with dp := { s.dp with note := s.dp.note.set ch v } }) ∧
    (¬ (0 ≤ s.dp.step ∧ s.dp.step.toNat < s.snap.len) → exec (.note ch) s = .fault .noSuchStep)

/-- R112: FREQ.HW is the exact quotient of the clock for a note in 0..79, and 0 Hz for any other note. -/
def Obligations.FreqHwDividesClock : Prop :=
  ∀ s ch, ∃ q, exec (.freqHw ch) s = .next { s with dp := { s.dp with freq := s.dp.freq.set ch q } } ∧
    (s.dp.note.get ch < 0 ∨ 80 ≤ s.dp.note.get ch → q = 0) ∧
    (∀ j : Nat, j < 80 → s.dp.note.get ch = j → q * (16 * ((period j : V) + 1)) = 1789773) ∧
    (s.dp.note.get ch = 0 → q = 596591 / 10848)

/-- R110: FREQ.ET puts `etFreq(note[ch])` into `freq[ch]`, for every integer note; the result is always greater than 0. -/
def Obligations.FreqEtIsEqualTempered : Prop :=
  ∀ s ch, exec (.freqEt ch) s = .next { s with dp := { s.dp with freq := s.dp.freq.set ch (etFreq (s.dp.note.get ch)) } } ∧
    0 < etFreq (s.dp.note.get ch) ∧ (s.dp.note.get ch = 69 → etFreq (s.dp.note.get ch) = 440)

/-- R111: the laws (a) to (e) of `etFreq`; (e) against the real number `r > 0` with `r^12 = 440^12 * 2^(note-69)`. Law (e)'s bound
`2^-23` is the spec's own guess at single precision and not in its source (D12, G5), and the model's `etFreq` is built so that it
holds (DESIGN CHOICE, log entry 7, unsafe through law (e)). -/
def Obligations.EtFreqObeysItsLaws : Prop :=
  etFreq 69 = 440 ∧ (∀ note, etFreq (note + 12) = 2 * etFreq note) ∧ (∀ note, 0 < etFreq note) ∧
  (∀ note note', note < note' → etFreq note < etFreq note') ∧
  ∀ note, ∀ r : ℝ, 0 < r → r ^ 12 = 440 ^ 12 * 2 ^ (note - 69) → |((etFreq note : V) : ℝ) - r| ≤ r * (1 / 2 ^ 23)

/-- R123, R124, R125: each pulse unit is 0 in the first half of each period of the absolute counter and 1 in the second, and 0 when its
channel is not active. `u` is the number of periods elapsed. -/
def Obligations.PulseUnitsAreHalfDutySquares : Prop :=
  ∀ s,
    (∃ p, exec .pulseA s = .next { s with dp := { s.dp with p1 := p } } ∧
      (s.dp.note.pulseA = -1 ∨ s.dp.freq.pulseA ≤ 0 → p = 0) ∧
      (s.dp.note.pulseA ≠ -1 → 0 < s.dp.freq.pulseA → ∀ u : V, u = (s.n : V) * s.dp.freq.pulseA / 48000 →
        (p = 0 ↔ ∃ w : Int, (w : V) ≤ u ∧ u < w + 1 / 2))) ∧
    (∃ p, exec .pulseB s = .next { s with dp := { s.dp with p2 := p } } ∧
      (s.dp.note.pulseB = -1 ∨ s.dp.freq.pulseB ≤ 0 → p = 0) ∧
      (s.dp.note.pulseB ≠ -1 → 0 < s.dp.freq.pulseB → ∀ u : V, u = (s.n : V) * s.dp.freq.pulseB / 48000 →
        (p = 0 ↔ ∃ w : Int, (w : V) ≤ u ∧ u < w + 1 / 2)))

/-- R126: TRI, in the folded mode, is the entry `abs(k)` of the level table; in legacy mode the entry `k` for `k >= 0`, and refused for
`k < 0`; not active it is 0. -/
def Obligations.TriReadsLevelTable : Prop :=
  ∀ s, let k := triIndex s.n s.dp.freq.triangle
    let active := s.dp.note.triangle ≠ -1 ∧ 0 < s.dp.freq.triangle
    (¬ active → exec .tri s = .next { s with dp := { s.dp with t := .silent } }) ∧
    (active → s.sMode.getLsbD 1 = false →
      ∃ e : Fin 16, (e.val : Int) = |k| ∧ exec .tri s = .next { s with dp := { s.dp with t := .level e } }) ∧
    (active → s.sMode.getLsbD 1 = true → 0 ≤ k →
      ∃ e : Fin 16, (e.val : Int) = k ∧ exec .tri s = .next { s with dp := { s.dp with t := .level e } }) ∧
    (active → s.sMode.getLsbD 1 = true → k < 0 → exec .tri s = .refused .legacyTriangleNegativeIndex)

/-- R126, R11: the triangle's index is the integer nearest to `30 * frac(n * f / 48000) - 15`, a tie going away from zero, and lies in
-15..15. -/
def Obligations.TriIndexRoundsHalfAwayFromZero : Prop :=
  ∀ (n : Nat) (f : V), 0 < f → ∃ (w : Int) (x : V), (w : V) ≤ (n : V) * f / 48000 ∧ (n : V) * f / 48000 < w + 1 ∧
    x = 30 * ((n : V) * f / 48000 - w) - 15 ∧ -15 ≤ triIndex n f ∧ triIndex n f ≤ 15 ∧
    |(triIndex n f : V) - x| ≤ 1 / 2 ∧ (|(triIndex n f : V) - x| = 1 / 2 → |x| < |(triIndex n f : V)|)

/-- R127: NOISE puts out the entry of a draw, one fresh draw for an active sample, and silence without a draw otherwise. -/
def Obligations.NoiseDrawsOncePerActiveSample : Prop :=
  ∀ s, (s.dp.note.noise = -1 → exec .noise s = .next { s with dp := { s.dp with nz := .silent } }) ∧
    (s.dp.note.noise ≠ -1 → ∃ k : Fin 16, exec .noise s = .next { s with dp := { s.dp with nz := .level k }, free := s.free + 1 })

/-- R27: the level table: 16 evenly spaced values from -1 to 1, step `2/15`; no entry is 0, so an output of exactly 0 means silence. -/
def Obligations.LevelTableIsEvenlySpaced : Prop :=
  level 0 = -1 ∧ level 15 = 1 ∧ (∀ k : Fin 16, ∀ h : k.val + 1 < 16, level ⟨k.val + 1, h⟩ = level k + 2 / 15) ∧
  (∀ k, level k ≠ 0) ∧ ∀ g : GenOut, g.toV = 0 ↔ g = .silent

/-- R140: MIX.PULSE has three results, by the number of pulse units that are high. -/
def Obligations.MixPulseSaturates : Prop :=
  ∀ s, ∃ v, exec .mixPulse s = .next { s with dp := { s.dp with pulseOut := v } } ∧
    (s.dp.p1 = 0 ∧ s.dp.p2 = 0 → v = 0) ∧ (s.dp.p1 ≠ s.dp.p2 → v = 141 / 12100) ∧ (s.dp.p1 = 1 ∧ s.dp.p2 = 1 → v = 799 / 34700)

/-- R141: MIX.TND is the formula, 0 exactly when both inputs are silent, and its two divisions never meet zero. -/
def Obligations.MixTndSaturates : Prop :=
  ∀ s, ∃ v, exec .mixTnd s = .next { s with dp := { s.dp with tndOut := v } } ∧
    (s.dp.t = .silent ∧ s.dp.nz = .silent → v = 0) ∧
    (¬ (s.dp.t = .silent ∧ s.dp.nz = .silent) →
      s.dp.t.toV / 8227 + s.dp.nz.toV / 12241 ≠ 0 ∧ 1 / (s.dp.t.toV / 8227 + s.dp.nz.toV / 12241) + 100 ≠ 0 ∧
      v = (15979 / 100) / (1 / (s.dp.t.toV / 8227 + s.dp.nz.toV / 12241) + 100))

/-- R142: MIX.SUM adds; after the two mixer stages the result is 0 when all four are silent, and lies in the range that R142 itself
marks as derived from R140 and R141, with the exact lower bound of R141's enumeration. -/
def Obligations.MixSumAddsWithinRange : Prop :=
  ∀ s, exec .mixSum s = .next { s with dp := { s.dp with mixed := s.dp.pulseOut + s.dp.tndOut } } ∧
    ∃ t, runAll [.mixPulse, .mixTnd, .mixSum] s = .next t ∧
      -81764543 / 2466497675 ≤ t.dp.mixed ∧ t.dp.mixed ≤ 799 / 34700 + 81764543 / 2568837675 ∧
      (s.dp.p1 = 0 → s.dp.p2 = 0 → s.dp.t = .silent → s.dp.nz = .silent → t.dp.mixed = 0)

/-- R144, R145, R146: HPF.A and HPF.B: `y = prevOut * k + x - prevIn`, then both registers are written; the input of the second is the
output of the first. -/
def Obligations.HighPassStagesFollowTheForm : Prop :=
  ∀ s,
    (∃ y, y = s.hpa.prevOut * (996039 / 1000000) + s.dp.mixed - s.hpa.prevIn ∧
      exec .hpfA s = .next { s with hpa := ⟨s.dp.mixed, y⟩, dp := { s.dp with y1 := y } }) ∧
    (∃ y, y = s.hpb.prevOut * (999835 / 1000000) + s.dp.y1 - s.hpb.prevIn ∧
      exec .hpfB s = .next { s with hpb := ⟨s.dp.y1, y⟩, dp := { s.dp with y2 := y } })

/-- R147: LPF: `y = (x - prevOut) * KLP`, as the document writes it. -/
def Obligations.LpfFollowsTheLetter : Prop :=
  ∀ s, ∃ y, y = (s.dp.y2 - s.lp.prevOut) * (815686 / 1000000) ∧
    exec .lpf s = .next { s with lp := ⟨s.dp.y2, y⟩, dp := { s.dp with y3 := y } }

/-- R166: GAIN: `out = y3 * S_VOLUME / 100`. -/
def Obligations.GainScalesByVolume : Prop :=
  ∀ s, exec .gain s = .next { s with dp := { s.dp with out := s.dp.y3 * (s.sVolume.toNat : V) / 100 } }

/-! ## The whole machine -/

/-- R20: each piece of the block's state is written only by the commands (and RESET) that its row names. -/
def Obligations.StateWrittenOnlyByItsRow : Prop :=
  ∀ i s t, i.isCommand = true → exec i s = .next t →
    (t.live.len ≠ s.live.len → ∃ c, i = .grow c ∨ i = .shrink c ∨ i = .newTrack) ∧
    (t.live.cells ≠ s.live.cells →
      ∃ ch step slot mask c, i = .select ch step slot ∨ i = .wrStep ch step mask ∨ i = .grow c ∨ i = .shrink c ∨ i = .newTrack) ∧
    (t.tempo ≠ s.tempo → ∃ b, i = .setTempo b) ∧
    (t.volume ≠ s.volume → ∃ v, i = .setVol v) ∧
    (t.mode ≠ s.mode → ∃ m, i = .setMode m) ∧
    (t.run ≠ s.run → i = .play ∨ i = .tick) ∧
    (t.cancel ≠ s.cancel → i = .stop ∨ i = .play ∨ i = .tick) ∧
    (t.n ≠ s.n → i = .play ∨ i = .tick) ∧
    (t.nEnd ≠ s.nEnd → i = .play) ∧
    ((t.snap, t.sTempo, t.sVolume, t.sMode) ≠ (s.snap, s.sTempo, s.sVolume, s.sMode) → i = .play) ∧
    ((t.hpa, t.hpb, t.lp) ≠ (s.hpa, s.hpb, s.lp) → i = .play ∨ i = .tick)

/-- R169: the block leaves Idle only by PLAY, and leaves Playing only by a TICK that finds the render stopped or finished, or by RESET. -/
def Obligations.RunChangesOnlyByTable : Prop :=
  ∀ s t, s.Inv → step s = .next t →
    (s.run = .idle → t.run = .playing → ∃ rest, s.inbox = .command 0x2000000000000000#64 :: rest) ∧
    (s.run = .playing → t.run = .idle → ∃ rest, s.inbox = .reset :: rest ∨
      (s.inbox = .command 0x2200000000000000#64 :: rest ∧ (s.cancel = true ∨ s.nEnd ≤ s.n)))

/-- The invariant holds right after reset. -/
def Obligations.ResetMeetsInvariant : Prop := State.reset.Inv

/-- Every step keeps the invariant: memories in canonical form with reserved bits 0, legal volumes, `CANCEL = 1` only while Playing,
`N_END = 800 * S_LEN * S_TEMPO`, `n <= N_END`, nothing kept of the datapath. -/
def Obligations.StepKeepsInvariant : Prop := ∀ s t, s.Inv → step s = .next t → t.Inv

/-- From a state that meets the invariant no step faults, and a step is refused only by a TICK in the legacy triangle mode (R53, R126,
R180). -/
def Obligations.StepStopsOnlyInLegacyTriangle : Prop :=
  ∀ s, s.Inv → (∀ r, step s ≠ .fault r) ∧
    ∀ r, step s = .refused r → r = .legacyTriangleNegativeIndex ∧ s.run = .playing ∧ s.sMode.getLsbD 1 = true ∧
      ∃ rest, s.inbox = .command 0x2200000000000000#64 :: rest

/-- R100 (b): as long as no WRSTEP is performed, every live step word has at most one bit set. -/
def Obligations.ExclusivityKeptWithoutWrStep : Prop :=
  State.reset.live.exclusive ∧ ∀ s t, s.live.exclusive → ¬ s.nextIsWrStep → step s = .next t → t.live.exclusive

/-- The bounds on the filter registers hold after reset, and every step keeps them (from R142, R144, R147, R148). -/
def Obligations.StepKeepsFilterBounds : Prop :=
  State.reset.FiltersBounded ∧ ∀ s t, s.FiltersBounded → step s = .next t → t.FiltersBounded

/-- R149, R170: every sample a TICK delivers from a state that meets the invariants lies within [-1, 1]. -/
def Obligations.SamplesStayWithinUnitRange : Prop :=
  ∀ s t x, s.FiltersBounded → s.sVolume.toNat ≤ 100 → exec .tick s = .next t → t.resp = some ⟨.ok, .sample x⟩ → -1 ≤ x ∧ x ≤ 1

/-- R57 (3): TICK neither reads nor writes the live track and the control registers: replacing them before a TICK or after it is the
same, whatever the outcome. The two runs compared take one and the same sequence of noise draws: that is the model's choice, which R30
forbids assuming of two runs of the hardware (DESIGN CHOICE, log entry 4, unsafe). -/
def Obligations.TickIgnoresLiveState : Prop :=
  ∀ s live tempo volume mode inbox,
    exec .tick (withLiveSide s live tempo volume mode inbox) =
      mapNext (fun t => withLiveSide t live tempo volume mode inbox) (exec .tick s)

/-- R203: what the host edits during a render is not heard: an edit followed by a TICK gives the sample that the TICK alone gives, and
the same engine state after it. The two runs compared take one and the same sequence of noise draws: that is the model's choice, which
R30 forbids assuming of two runs of the hardware (DESIGN CHOICE, log entry 4, unsafe). -/
def Obligations.EditsDuringRenderAreNotHeard : Prop :=
  ∀ s i t, editsLive i = true → exec .tick s = .next t → ∃ u, runAll [i, .tick] s = .next u ∧
    u.resp = t.resp ∧ u.run = t.run ∧ u.cancel = t.cancel ∧ u.n = t.n ∧ u.nEnd = t.nEnd ∧ u.snap = t.snap ∧ u.sTempo = t.sTempo ∧
    u.sVolume = t.sVolume ∧ u.sMode = t.sMode ∧ u.hpa = t.hpa ∧ u.hpb = t.hpb ∧ u.lp = t.lp
end

