-- ==== Sys2Proof/Laws/Decode.lean ====
section
/-! SUPPORT. The fields of a command word and of a packed one, and what a decode that succeeds says: the laws the encoding statements
rest on. -/

namespace Sys2Proof

@[simp] theorem Channel.ofBits_bits (ch : Channel) : Channel.ofBits ch.bits = ch := by cases ch <;> decide

theorem Channel.bits_ofBits (b : BitVec 2) : (Channel.ofBits b).bits = b := by
  revert b; decide

/-! ### The fields of `packFields` -/

@[simp] theorem opField_pack (op : BitVec 8) (ch : BitVec 2) (step : BitVec 16) (arg : BitVec 32) :
    opField (packFields op ch step arg) = op := by
  unfold opField packFields
  ext i hi
  simp
  grind

@[simp] theorem zeroField_pack (op : BitVec 8) (ch : BitVec 2) (step : BitVec 16) (arg : BitVec 32) :
    zeroField (packFields op ch step arg) = 0#6 := by
  unfold zeroField packFields
  ext i hi
  simp
  grind

@[simp] theorem chField_pack (op : BitVec 8) (ch : BitVec 2) (step : BitVec 16) (arg : BitVec 32) :
    chField (packFields op ch step arg) = ch := by
  unfold chField packFields
  ext i hi
  simp
  grind

@[simp] theorem stepField_pack (op : BitVec 8) (ch : BitVec 2) (step : BitVec 16) (arg : BitVec 32) :
    stepField (packFields op ch step arg) = step := by
  unfold stepField packFields
  ext i hi
  simp
  grind

@[simp] theorem argField_pack (op : BitVec 8) (ch : BitVec 2) (step : BitVec 16) (arg : BitVec 32) :
    argField (packFields op ch step arg) = arg := by
  unfold argField packFields
  ext i hi
  simp
  grind

/-- A command word is its five fields. -/
theorem cmdWord_ext_iff (a b : CmdWord) : a = b ↔ opField a = opField b ∧ zeroField a = zeroField b ∧ chField a = chField b ∧
    stepField a = stepField b ∧ argField a = argField b := by
  refine ⟨fun h => by subst h; simp, fun ⟨h1, h2, h3, h4, h5⟩ => ?_⟩
  have bit : ∀ {n : Nat} {x y : BitVec n}, x = y → ∀ k, x.getLsbD k = y.getLsbD k := fun h k => by rw [h]
  refine BitVec.eq_of_getLsbD_eq fun k hk => ?_
  rcases (by omega : k < 32 ∨ (32 ≤ k ∧ k < 48) ∨ (48 ≤ k ∧ k < 50) ∨ (50 ≤ k ∧ k < 56) ∨ 56 ≤ k) with h | h | h | h | h
  · simpa [argField, h] using bit h5 k
  · have := bit h4 (k - 32)
    simpa [stepField, show k - 32 < 16 by omega, show 32 + (k - 32) = k by omega] using this
  · have := bit h3 (k - 48)
    simpa [chField, show k - 48 < 2 by omega, show 48 + (k - 48) = k by omega] using this
  · have := bit h2 (k - 50)
    simpa [zeroField, show k - 50 < 6 by omega, show 50 + (k - 50) = k by omega] using this
  · have := bit h1 (k - 56)
    simpa [opField, show k - 56 < 8 by omega, show 56 + (k - 56) = k by omega] using this

/-- A word whose zero field is 0 is the packing of its other fields. -/
theorem packFields_fields {cw : CmdWord} (h : zeroField cw = 0#6) :
    packFields (opField cw) (chField cw) (stepField cw) (argField cw) = cw := by
  rw [cmdWord_ext_iff]; simp [h]

/-! ### Masking acts field by field -/

theorem opField_and (a b : CmdWord) : opField (a &&& b) = opField a &&& opField b := by
  unfold opField; ext i hi; simp

theorem zeroField_and (a b : CmdWord) : zeroField (a &&& b) = zeroField a &&& zeroField b := by
  unfold zeroField; ext i hi; simp

theorem chField_and (a b : CmdWord) : chField (a &&& b) = chField a &&& chField b := by
  unfold chField; ext i hi; simp

theorem stepField_and (a b : CmdWord) : stepField (a &&& b) = stepField a &&& stepField b := by
  unfold stepField; ext i hi; simp

theorem argField_and (a b : CmdWord) : argField (a &&& b) = argField a &&& argField b := by
  unfold argField; ext i hi; simp

/-! ### The must-be-zero checks -/

/-- When the checks let an operation through (R76). -/
theorem checked_eq_ok_iff {cw : CmdWord} {useCh useStep : Bool} {k : Nat} {i j : Instr} :
    checked cw useCh useStep k i = .ok j ↔ i = j ∧ zeroField cw = 0#6 ∧ (useCh = false → chField cw = 0#2) ∧
      (useStep = false → stepField cw = 0#16) ∧ argField cw >>> k = 0#32 := by
  unfold checked
  cases useCh <;> cases useStep <;> (split <;> try split) <;> (try split) <;> (try split) <;> simp_all

/-- The checks either let the operation through or reject the word. -/
theorem checked_cases (cw : CmdWord) (useCh useStep : Bool) (k : Nat) (i : Instr) :
    checked cw useCh useStep k i = .ok i ∨ ∃ e, checked cw useCh useStep k i = .error e := by
  unfold checked
  split
  · exact .inr ⟨_, rfl⟩
  split
  · exact .inr ⟨_, rfl⟩
  split
  · exact .inr ⟨_, rfl⟩
  split
  · exact .inr ⟨_, rfl⟩
  exact .inl rfl

end Sys2Proof
end

