-- ==== Sys2Proof/Laws/Frequency.lean ====
section
/-! SUPPORT. The equal-tempered formula against the real number it approximates: `etFreq` is built octave by octave from numbers
that meet law (e) of R111, whatever the open candidates are. -/

namespace Sys2Proof.Machine

/-- `pow2` is the integer power of 2. -/
theorem pow2_eq_zpow (k : Int) : pow2 k = (2 : V) ^ k := by
  unfold pow2
  split
  · rename_i h
    obtain ⟨n, rfl⟩ := Int.eq_ofNat_of_zero_le h
    simp
  · rename_i h
    obtain ⟨n, hn⟩ := Int.eq_ofNat_of_zero_le (by omega : 0 ≤ -k)
    rw [hn]
    have : k = -(n : Int) := by omega
    subst this
    simp

theorem etLawful_meets : ∀ j : Fin 12, etLawE j.val (etLawful j.val) = true := by decide +kernel

theorem etOctave_zero : etOctave 0 = 440 := rfl

/-- Every number of the octave meets law (e) (R111). -/
theorem etOctave_meets {j : Nat} (h : j < 12) : etLawE j (etOctave j) = true := by
  unfold etOctave
  split
  · rename_i h0; subst h0; decide +kernel
  · split
    · assumption
    · exact etLawful_meets ⟨j, h⟩

/-- A note one octave up has twice the frequency (R111 (b)). -/
theorem etFreq_octave (note : Int) : etFreq (note + 12) = 2 * etFreq note := by
  unfold etFreq
  have h1 : (note + 12 - 69) / 12 = (note - 69) / 12 + 1 := by omega
  have h2 : (note + 12 - 69) % 12 = (note - 69) % 12 := by omega
  rw [h1, h2, pow2_eq_zpow, pow2_eq_zpow, zpow_add₀ (by norm_num)]
  ring

theorem etFreq_pos (note : Int) : 0 < etFreq note := by
  have hm := etOctave_meets (j := ((note - 69) % 12).toNat) (by omega)
  simp only [etLawE, decide_eq_true_eq] at hm
  unfold etFreq
  rw [pow2_eq_zpow]
  exact mul_pos (zpow_pos (by norm_num) _) hm.1

/-- `c / (1 + e) <= r` and `r <= c / (1 - e)` from their 12th powers. -/
theorem etLawE_real {j : Nat} {c : V} (h : etLawE j c = true) {r : ℝ} (hr : 0 < r) (e : r ^ 12 = 440 ^ 12 * 2 ^ j) :
    |(c : ℝ) - r| ≤ r * (1 / 2 ^ 23) := by
  simp only [etLawE, decide_eq_true_eq] at h
  obtain ⟨h0, h1, h2⟩ := h
  have h0' : (0 : ℝ) < c := by exact_mod_cast h0
  have h1' : ((c : ℝ) / (1 + 1 / 8388608)) ^ 12 ≤ r ^ 12 := by
    rw [e]; have := (Rat.cast_le (K := ℝ)).2 h1; push_cast at this; exact this
  have h2' : r ^ 12 ≤ ((c : ℝ) / (1 - 1 / 8388608)) ^ 12 := by
    rw [e]; have := (Rat.cast_le (K := ℝ)).2 h2; push_cast at this; exact this
  have a := le_of_pow_le_pow_left₀ (by norm_num) hr.le h1'
  have b := le_of_pow_le_pow_left₀ (by norm_num) (div_nonneg h0'.le (by norm_num)) h2'
  rw [div_le_iff₀ (by norm_num)] at a
  rw [le_div_iff₀ (by norm_num)] at b
  rw [abs_le]
  constructor <;> linarith

/-- Law (e) at every note (R111 (e)). -/
theorem etFreq_near {note : Int} {r : ℝ} (hr : 0 < r) (e : r ^ 12 = 440 ^ 12 * 2 ^ (note - 69)) :
    |((etFreq note : V) : ℝ) - r| ≤ r * (1 / 2 ^ 23) := by
  have hj : ((note - 69) % 12).toNat < 12 := by omega
  obtain ⟨k, hk⟩ : ∃ k : Int, k = (note - 69) / 12 := ⟨_, rfl⟩
  obtain ⟨j, hjd⟩ : ∃ j : Nat, j = ((note - 69) % 12).toNat := ⟨_, rfl⟩
  have hs : note - 69 = k * 12 + (j : Int) := by omega
  have two : (0 : ℝ) < 2 ^ k := zpow_pos (by norm_num) k
  have e2 : (r / 2 ^ k) ^ 12 = 440 ^ 12 * 2 ^ j := by
    rw [div_pow, e, hs, zpow_add₀ (by norm_num), zpow_mul, zpow_natCast, div_eq_iff (by positivity)]
    have : ((2 : ℝ) ^ k) ^ 12 = ((2 : ℝ) ^ k) ^ (12 : Int) := by norm_cast
    rw [this]
    ring
  have key := etLawE_real (etOctave_meets hj) (div_pos hr two) (by rw [← hjd]; exact e2)
  unfold etFreq
  rw [pow2_eq_zpow, ← hk]
  rw [← hjd] at key ⊢
  push_cast
  have : (2 : ℝ) ^ k * (etOctave j : ℝ) - r = 2 ^ k * ((etOctave j : ℝ) - r / 2 ^ k) := by
    field_simp
  rw [this, abs_mul, abs_of_pos two]
  calc (2 : ℝ) ^ k * |(etOctave j : ℝ) - r / 2 ^ k| ≤ 2 ^ k * (r / 2 ^ k * (1 / 2 ^ 23)) := mul_le_mul_of_nonneg_left key two.le
    _ = r * (1 / 2 ^ 23) := by field_simp

end Sys2Proof.Machine
end

