-- ==== Sys2Proof/Laws/Memory.lean ====
section
/-! SUPPORT. The laws of the step memories: what reads after a write, a growth, a truncation; every operation keeps the canonical form
and the reserved bits. -/

namespace Sys2Proof.Machine

/-! ### Addresses -/

theorem flatAddr_lt (ch : Channel) {i : Nat} (h : i < 65536) : flatAddr ch i < 4 * 65536 := by
  have := ch.num.isLt
  simp only [flatAddr]; omega

theorem indexOf_flatAddr (ch : Channel) {i : Nat} (h : i < 65536) : indexOf (flatAddr ch i) = i := by
  simp only [indexOf, flatAddr]; omega

theorem Channel.num_injective : Function.Injective Channel.num := by
  intro a b h; cases a <;> cases b <;> first | rfl | exact absurd h (by decide)

/-- Two addresses of the space are equal only if they are the same pair (R50). -/
theorem flatAddr_inj {ch ch' : Channel} {i i' : Nat} (h : i < 65536) (h' : i' < 65536)
    (e : flatAddr ch i = flatAddr ch' i') : ch = ch' ∧ i = i' := by
  simp only [flatAddr] at e
  have hv : ch.num.val = ch'.num.val := by omega
  exact ⟨Channel.num_injective (Fin.ext hv), by omega⟩

/-! ### The cell list -/

theorem lookupCell_eq_zero_of_forall_ne {cs : List StepCell} {a : Nat} (h : ∀ c ∈ cs, c.1 ≠ a) : lookupCell cs a = 0#16 := by
  induction cs with
  | nil => rfl
  | cons c rest ih =>
    obtain ⟨b, w⟩ := c
    have hb : a ≠ b := fun e => h (b, w) (by simp) e.symm
    simp only [lookupCell, if_neg hb]
    exact ih fun c hc => h c (by simp [hc])

theorem lookupCell_mem {cs : List StepCell} {a : Nat} (h : lookupCell cs a ≠ 0#16) : (a, lookupCell cs a) ∈ cs := by
  induction cs with
  | nil => exact absurd rfl h
  | cons c rest ih =>
    obtain ⟨b, w⟩ := c
    by_cases hb : a = b
    · subst hb; simp [lookupCell]
    · simp only [lookupCell, if_neg hb] at h ⊢
      exact List.mem_cons_of_mem _ (ih h)

theorem lookupCell_eq_of_mem {cs : List StepCell} {a : Nat} {w : StepWord}
    (hs : cs.Pairwise fun c d => c.1 < d.1) (h : (a, w) ∈ cs) : lookupCell cs a = w := by
  induction cs with
  | nil => simp at h
  | cons c rest ih =>
    obtain ⟨b, v⟩ := c
    rw [List.pairwise_cons] at hs
    rcases List.mem_cons.1 h with e | hr
    · obtain ⟨rfl, rfl⟩ := Prod.mk.inj e; simp [lookupCell]
    · have : a ≠ b := by have := hs.1 _ hr; simp at this; omega
      simp only [lookupCell, if_neg this]; exact ih hs.2 hr

/-- What a put does to every address: the word there, and no other. -/
theorem lookupCell_putCell {cs : List StepCell} (hs : cs.Pairwise fun c d => c.1 < d.1) (a : Nat) (v : StepWord) (b : Nat) :
    lookupCell (putCell cs a v) b = if b = a then v else lookupCell cs b := by
  induction cs with
  | nil =>
    by_cases hv : v = 0#16 <;> by_cases hb : b = a <;> simp [putCell, lookupCell, hv, hb]
  | cons c rest ih =>
    obtain ⟨c, w⟩ := c
    rw [List.pairwise_cons] at hs
    have ih := ih hs.2
    have tail : ∀ x, x ≤ c → lookupCell rest x = 0#16 := fun x hx =>
      lookupCell_eq_zero_of_forall_ne fun d hd => by have := hs.1 d hd; simp at this; omega
    rcases Nat.lt_trichotomy a c with h | h | h
    · simp only [putCell, if_pos h]
      by_cases hv : v = 0#16
      · rw [if_pos hv]
        by_cases hb : b = a
        · subst hb; simp [lookupCell, Nat.ne_of_lt h, tail b (by omega), hv]
        · simp [hb]
      · rw [if_neg hv]
        by_cases hb : b = a <;> simp [lookupCell, hb]
    · subst h
      simp only [putCell, Nat.lt_irrefl, if_false, if_true]
      by_cases hv : v = 0#16
      · rw [if_pos hv]
        by_cases hb : b = a
        · subst hb; simp [tail b (Nat.le_refl _), hv]
        · simp [lookupCell, hb]
      · rw [if_neg hv]
        by_cases hb : b = a <;> simp [lookupCell, hb]
    · have h1 : ¬ a < c := by omega
      have h2 : a ≠ c := by omega
      simp only [putCell, if_neg h1, if_neg h2, lookupCell, ih]
      by_cases hb : b = c
      · have : b ≠ a := by omega
        simp [hb, h2.symm]
      · simp [hb]

/-- Every cell after a put is the new one or was there. -/
theorem mem_putCell {cs : List StepCell} {a : Nat} {v : StepWord} {c : StepCell} (h : c ∈ putCell cs a v) :
    (c = (a, v) ∧ v ≠ 0#16) ∨ c ∈ cs := by
  induction cs with
  | nil =>
    by_cases hv : v = 0#16
    · simp [putCell, hv] at h
    · simp [putCell, hv] at h; exact .inl ⟨h, hv⟩
  | cons d rest ih =>
    obtain ⟨b, w⟩ := d
    simp only [putCell] at h
    split at h
    · split at h
      · exact .inr h
      · rename_i hv
        rcases List.mem_cons.1 h with e | hr
        · exact .inl ⟨e, hv⟩
        · exact .inr hr
    · split at h
      · split at h
        · exact .inr (List.mem_cons_of_mem _ h)
        · rename_i hab hv
          rcases List.mem_cons.1 h with e | hr
          · exact .inl ⟨by rw [e, hab], hv⟩
          · exact .inr (List.mem_cons_of_mem _ hr)
      · rcases List.mem_cons.1 h with e | hr
        · exact .inr (by simp [e])
        · rcases ih hr with h1 | h1
          · exact .inl h1
          · exact .inr (List.mem_cons_of_mem _ h1)

theorem putCell_pairwise {cs : List StepCell} (hs : cs.Pairwise fun c d => c.1 < d.1) (a : Nat) (v : StepWord) :
    (putCell cs a v).Pairwise fun c d => c.1 < d.1 := by
  induction cs with
  | nil => by_cases hv : v = 0#16 <;> simp [putCell, hv]
  | cons d rest ih =>
    obtain ⟨b, w⟩ := d
    have hs' := hs
    rw [List.pairwise_cons] at hs
    simp only [putCell]
    split
    · split
      · exact hs'
      · rename_i hab _
        refine List.pairwise_cons.2 ⟨fun c hc => ?_, hs'⟩
        rcases List.mem_cons.1 hc with e | hr
        · subst e; exact hab
        · exact Nat.lt_trans hab (hs.1 c hr)
    · split
      · split
        · exact hs.2
        · exact List.pairwise_cons.2 ⟨hs.1, hs.2⟩
      · refine List.pairwise_cons.2 ⟨fun c hc => ?_, ih hs.2⟩
        rcases mem_putCell hc with ⟨e, -⟩ | hr
        · subst e; simp only; omega
        · exact hs.1 c hr

theorem lookupCell_filter (cs : List StepCell) (p : Nat → Bool) (a : Nat) :
    lookupCell (cs.filter fun c => p c.1) a = if p a then lookupCell cs a else 0#16 := by
  induction cs with
  | nil => simp [lookupCell]
  | cons c rest ih =>
    obtain ⟨b, w⟩ := c
    by_cases hp : p b <;> by_cases hb : a = b
    · subst hb; simp [List.filter, hp, lookupCell]
    · simp [List.filter, hp, lookupCell, hb, ih]
    · subst hb; simp [List.filter, hp, ih]
    · simp [List.filter, hp, lookupCell, hb, ih]

/-! ### Reads -/

theorem Memory.read_eq_some_iff {m : Memory} {ch : Channel} {i : Nat} {w : StepWord} :
    m.read ch i = some w ↔ i < m.len ∧ lookupCell m.cells (flatAddr ch i) = w := by
  unfold Memory.read; split <;> simp_all

theorem Memory.read_isSome_iff {m : Memory} {ch : Channel} {i : Nat} : (m.read ch i).isSome ↔ i < m.len := by
  unfold Memory.read; split <;> simp_all

theorem Memory.read_eq_none_iff {m : Memory} {ch : Channel} {i : Nat} : m.read ch i = none ↔ m.len ≤ i := by
  unfold Memory.read; split <;> simp_all

@[simp] theorem Memory.write_len (m : Memory) (ch : Channel) (i : Nat) (v : StepWord) : (m.write ch i v).len = m.len := rfl

@[simp] theorem Memory.empty_len : Memory.empty.len = 0 := rfl

@[simp] theorem Memory.grow_len (m : Memory) (k : Nat) : (m.grow k).len = m.len + k := rfl

@[simp] theorem Memory.shrink_len (m : Memory) (k : Nat) : (m.shrink k).len = m.len - k := rfl

/-- The word written reads back. -/
theorem Memory.read_write_same {m : Memory} (h : m.wf) {ch : Channel} {i : Nat} (hi : i < m.len) (v : StepWord) :
    (m.write ch i v).read ch i = some v := by
  rw [Memory.read_eq_some_iff]
  exact ⟨hi, by simp [Memory.write, lookupCell_putCell h.2.1]⟩

/-- Every other word reads as before. -/
theorem Memory.read_write_other {m : Memory} (h : m.wf) {ch ch' : Channel} {i i' : Nat} (hi : i < m.len) (v : StepWord)
    (hne : ¬ (ch' = ch ∧ i' = i)) : (m.write ch i v).read ch' i' = m.read ch' i' := by
  have hl : m.len ≤ 65535 := h.1
  unfold Memory.read
  by_cases hi' : i' < m.len
  · have : flatAddr ch' i' ≠ flatAddr ch i := fun e => hne (flatAddr_inj (by omega) (by omega) e)
    simp [Memory.write, lookupCell_putCell h.2.1, this]
  · simp [hi']

/-- Words that existed keep their values; the new ones are 0 (R94). -/
theorem Memory.read_grow {m : Memory} (h : m.wf) (ch : Channel) (i k : Nat) (hk : m.len + k ≤ lMax) :
    (m.grow k).read ch i = if i < m.len then m.read ch i else if i < m.len + k then some 0#16 else none := by
  have hm : lMax = 65535 := rfl
  have key : ∀ a, lookupCell (m.keepBelow m.len) a = if indexOf a < m.len then lookupCell m.cells a else 0#16 := fun a => by
    simpa [Memory.keepBelow] using lookupCell_filter m.cells (fun b => decide (indexOf b < m.len)) a
  unfold Memory.read
  simp only [Memory.grow_len]
  by_cases h1 : i < m.len
  · simp [h1, Nat.lt_add_right k h1, Memory.grow, key, indexOf_flatAddr ch (show i < 65536 by omega)]
  · by_cases h2 : i < m.len + k
    · simp [h1, h2, Memory.grow, key, indexOf_flatAddr ch (show i < 65536 by omega)]
    · simp [h1, h2]

/-- The words left keep their values; the others cease to exist (R95). -/
theorem Memory.read_shrink {m : Memory} (h : m.wf) (ch : Channel) (i k : Nat) :
    (m.shrink k).read ch i = if i < m.len - k then m.read ch i else none := by
  have hl : m.len ≤ 65535 := h.1
  have key : ∀ a, lookupCell (m.keepBelow (m.len - k)) a = if indexOf a < m.len - k then lookupCell m.cells a else 0#16 :=
    fun a => by simpa [Memory.keepBelow] using lookupCell_filter m.cells (fun b => decide (indexOf b < m.len - k)) a
  unfold Memory.read
  simp only [Memory.shrink_len]
  by_cases h1 : i < m.len - k
  · have h2 : i < m.len := by omega
    simp [h1, h2, Memory.shrink, key, indexOf_flatAddr ch (show i < 65536 by omega)]
  · simp [h1]

/-! ### The canonical form is kept -/

theorem Memory.empty_wf : Memory.empty.wf := by decide

theorem Memory.write_wf {m : Memory} (h : m.wf) (ch : Channel) {i : Nat} (hi : i < m.len) (v : StepWord) : (m.write ch i v).wf := by
  have hl : m.len ≤ 65535 := h.1
  refine ⟨h.1, putCell_pairwise h.2.1 _ _, fun c hc => ?_⟩
  rcases mem_putCell hc with ⟨e, hv⟩ | hm
  · subst e
    exact ⟨hv, flatAddr_lt ch (by omega), by
      simpa [indexOf_flatAddr ch (show i < 65536 by omega)] using hi⟩
  · exact h.2.2 c hm

theorem Memory.keepBelow_mem {m : Memory} {k : Nat} {c : StepCell} (hc : c ∈ m.keepBelow k) : c ∈ m.cells ∧ indexOf c.1 < k := by
  simpa [Memory.keepBelow] using hc

theorem Memory.grow_wf {m : Memory} (h : m.wf) {k : Nat} (hk : m.len + k ≤ lMax) : (m.grow k).wf := by
  refine ⟨hk, h.2.1.filter _, fun c hc => ?_⟩
  obtain ⟨hm, hi⟩ := Memory.keepBelow_mem hc
  exact ⟨(h.2.2 c hm).1, (h.2.2 c hm).2.1, by simpa using Nat.lt_add_right k hi⟩

theorem Memory.shrink_wf {m : Memory} (h : m.wf) (k : Nat) : (m.shrink k).wf := by
  refine ⟨Nat.le_trans (Nat.sub_le _ _) h.1, h.2.1.filter _, fun c hc => ?_⟩
  obtain ⟨hm, hi⟩ := Memory.keepBelow_mem hc
  exact ⟨(h.2.2 c hm).1, (h.2.2 c hm).2.1, hi⟩

/-! ### Properties of every word -/

theorem Memory.forall_write {m : Memory} {ch : Channel} {i : Nat} {v : StepWord} {p : StepWord → Prop}
    (h : ∀ c ∈ m.cells, p c.2) (hv : p v) : ∀ c ∈ (m.write ch i v).cells, p c.2 := by
  intro c hc
  rcases mem_putCell hc with ⟨e, -⟩ | hm
  · subst e; exact hv
  · exact h c hm

theorem Memory.forall_grow {m : Memory} {k : Nat} {p : StepWord → Prop} (h : ∀ c ∈ m.cells, p c.2) :
    ∀ c ∈ (m.grow k).cells, p c.2 := fun c hc => h c (Memory.keepBelow_mem hc).1

theorem Memory.forall_shrink {m : Memory} {k : Nat} {p : StepWord → Prop} (h : ∀ c ∈ m.cells, p c.2) :
    ∀ c ∈ (m.shrink k).cells, p c.2 := fun c hc => h c (Memory.keepBelow_mem hc).1

theorem Memory.forall_empty {p : StepWord → Prop} : ∀ c ∈ Memory.empty.cells, p c.2 := by simp [Memory.empty]

/-- A word that is read is 0 or listed. -/
theorem Memory.read_forall {m : Memory} {ch : Channel} {i : Nat} {w : StepWord} {p : StepWord → Prop} (h0 : p 0#16)
    (h : ∀ c ∈ m.cells, p c.2) (hr : m.read ch i = some w) : p w := by
  obtain ⟨-, rfl⟩ := Memory.read_eq_some_iff.1 hr
  by_cases hz : lookupCell m.cells (flatAddr ch i) = 0#16
  · rw [hz]; exact h0
  · exact h _ (lookupCell_mem hz)

/-- A memory in canonical form is determined by its length and its words: equal memories are equal data. -/
theorem Memory.ext_of_wf {m m' : Memory} (h : m.wf) (h' : m'.wf) (hl : m.len = m'.len)
    (hr : ∀ ch i, i < m.len → m.read ch i = m'.read ch i) : m = m' := by
  have addr : ∀ a, a < 4 * 65536 → ∃ ch : Channel, a = flatAddr ch (indexOf a) := by
    intro a ha
    have h4 : a / 65536 < 4 := by omega
    have : ∃ ch : Channel, ch.num.val = a / 65536 := by
      rcases (by omega : a / 65536 = 0 ∨ a / 65536 = 1 ∨ a / 65536 = 2 ∨ a / 65536 = 3) with e | e | e | e
      · exact ⟨.pulseA, e.symm⟩
      · exact ⟨.pulseB, e.symm⟩
      · exact ⟨.triangle, e.symm⟩
      · exact ⟨.noise, e.symm⟩
    obtain ⟨ch, hch⟩ := this
    exact ⟨ch, by simp only [flatAddr, indexOf, hch]; omega⟩
  have sub : ∀ {m m' : Memory}, m.wf → m'.wf → m.len = m'.len → (∀ ch i, i < m.len → m.read ch i = m'.read ch i) →
      ∀ c ∈ m.cells, c ∈ m'.cells := by
    intro m m' h h' hl hr c hc
    obtain ⟨a, w⟩ := c
    obtain ⟨hw, ha, hi⟩ := h.2.2 _ hc
    obtain ⟨ch, hch⟩ := addr a ha
    have e := hr ch (indexOf a) hi
    have hi' : indexOf a < m'.len := hl ▸ hi
    simp only [Memory.read, if_pos hi, if_pos hi', ← hch, Option.some.injEq] at e
    have ew := lookupCell_eq_of_mem h.2.1 hc
    have : lookupCell m'.cells a = w := by rw [← e, ew]
    have hm := lookupCell_mem (cs := m'.cells) (a := a) (by rw [this]; exact hw)
    rwa [this] at hm
  have hcells : m.cells = m'.cells := by
    have nd : ∀ {m : Memory}, m.wf → m.cells.Nodup := fun h => h.2.1.imp fun hlt e => by rw [e] at hlt; omega
    have hp : m.cells.Perm m'.cells := (List.perm_ext_iff_of_nodup (nd h) (nd h')).2 fun c =>
      ⟨sub h h' hl hr c, sub h' h hl.symm (fun ch i hi => (hr ch i (by omega)).symm) c⟩
    exact hp.eq_of_pairwise (fun a b _ _ h1 h2 => absurd (Nat.lt_trans h1 h2) (Nat.lt_irrefl _)) h.2.1 h'.2.1
  cases m; cases m'; simp_all

end Sys2Proof.Machine
end

