-- ==== Sys2Proof/Laws/Operands.lean ====
section
/-! SUPPORT. What the operand forms compute: the number of slots, one-hot words and masks, the toggle of SELECT, the lowest set bit, and
the channels' components. -/

namespace Sys2Proof.Machine

/-! ### Slots and masks -/

theorem nslots_le : nslots ≤ 16 := by unfold nslots; omega

theorem le_nslots : 12 ≤ nslots := by unfold nslots; omega

/-- A 16-bit word has no bit at or above 16. -/
theorem bit_lt_of_getLsbD {m : StepWord} {b : Nat} (h : m.getLsbD b = true) : b < 16 := by
  by_contra hc
  rw [BitVec.getLsbD_of_ge m b (by omega)] at h
  cases h

theorem oneHot_bit_fin : ∀ a b : Fin 16, (oneHot a.val).getLsbD b.val = decide (a = b) := by decide

/-- The one-hot word of a slot has exactly that bit. -/
theorem oneHot_getLsbD {a : Nat} (ha : a < 16) (b : Nat) : (oneHot a).getLsbD b = decide (a = b) := by
  by_cases hb : b < 16
  · simpa using oneHot_bit_fin ⟨a, ha⟩ ⟨b, hb⟩
  · rw [BitVec.getLsbD_of_ge _ b (by omega)]
    exact (decide_eq_false (by omega)).symm

/-- The slot mask has exactly the bits below `NSLOTS` (R70). -/
theorem slotMask_getLsbD (b : Nat) : slotMask.getLsbD b = decide (b < nslots) := by
  have := nslots_le
  unfold slotMask
  by_cases hb : b < 16
  · rw [BitVec.getLsbD_ofNat, Nat.testBit_two_pow_sub_one]; simp [hb]
  · rw [BitVec.getLsbD_of_ge _ b (by omega)]
    exact (decide_eq_false (by omega)).symm

/-- Masking with the slot mask twice is masking once: what WRSTEP stores has no reserved bit. -/
theorem and_slotMask_idem (m : StepWord) : (m &&& slotMask) &&& slotMask = m &&& slotMask := by
  rw [BitVec.and_assoc, BitVec.and_self]

/-- A slot below `NSLOTS` is not masked away. -/
theorem oneHot_and_slotMask {a : Nat} (ha : a < nslots) : oneHot a &&& slotMask = oneHot a := by
  have h16 := nslots_le
  refine BitVec.eq_of_getLsbD_eq fun i _ => ?_
  rw [BitVec.getLsbD_and, oneHot_getLsbD (by omega), slotMask_getLsbD]
  by_cases h : a = i
  · subst h; simp [ha]
  · simp [h]

/-! ### The toggle of SELECT -/

/-- SELECT's mask arithmetic: 0 if the bit was set, else exactly that bit (R90). -/
theorem toggleSlot_eq (m : StepWord) {k : Nat} (hk : k < 16) : toggleSlot m k = if m.getLsbD k then 0#16 else oneHot k := by
  unfold toggleSlot
  refine BitVec.eq_of_getLsbD_eq fun i hi => ?_
  rw [BitVec.getLsbD_xor, BitVec.getLsbD_and, oneHot_getLsbD hk]
  by_cases hm : m.getLsbD k
  · rw [if_pos hm]
    by_cases hik : k = i
    · subst hik; simp [hm]
    · simp [hik]
  · rw [if_neg hm, oneHot_getLsbD hk]
    by_cases hik : k = i
    · subst hik; simp [hm]
    · simp [hik]

theorem popcount_zero : popcount 0#16 = 0 := by decide

theorem popcount_oneHot_fin : ∀ k : Fin 16, popcount (oneHot k.val) = 1 := by decide

/-- After a SELECT the word has at most one bit set (R90). -/
theorem popcount_toggleSlot (m : StepWord) {k : Nat} (hk : k < 16) : popcount (toggleSlot m k) ≤ 1 := by
  rw [toggleSlot_eq m hk]
  split
  · rw [popcount_zero]; omega
  · rw [popcount_oneHot_fin ⟨k, hk⟩]

/-- A toggled word keeps its reserved bits 0 (R70). -/
theorem toggleSlot_and_slotMask (m : StepWord) {k : Nat} (hk : k < nslots) : toggleSlot m k &&& slotMask = toggleSlot m k := by
  have := nslots_le
  rw [toggleSlot_eq m (by omega)]
  split
  · simp
  · exact oneHot_and_slotMask hk

/-! ### The lowest set bit and the note -/

theorem range_split : ∀ j : Fin 16, List.range 16 = List.range' 0 j.val ++ j.val :: List.range' (j.val + 1) (15 - j.val) := by
  decide

/-- `ctz` finds the lowest set bit (R11). -/
theorem ctz_eq {m : StepWord} {j : Nat} (h : m.getLsbD j = true) (hlow : ∀ k, k < j → m.getLsbD k = false) : ctz m = j := by
  have e : (List.range' 0 j).filter (fun i => m.getLsbD i) = [] := by
    rw [List.filter_eq_nil_iff]
    intro a ha
    simp only [List.mem_range'_1] at ha
    simp [hlow a (by omega)]
  unfold ctz setBits
  rw [range_split ⟨j, bit_lt_of_getLsbD h⟩, List.filter_append, e]
  simp [h]

/-- A non-zero word has a lowest set bit. -/
theorem exists_lowest {m : StepWord} (h : m ≠ 0#16) : ∃ j, m.getLsbD j = true ∧ ∀ k, k < j → m.getLsbD k = false := by
  have hex : ∃ j, m.getLsbD j = true := by
    by_contra hc
    exact h (BitVec.eq_of_getLsbD_eq fun i _ => by simpa using fun hb => hc ⟨i, hb⟩)
  classical
  exact ⟨Nat.find hex, Nat.find_spec hex, fun k hk => by simpa using Nat.find_min hex hk⟩

theorem noteIndex_zero (ch : Channel) : noteIndex ch 0#16 = -1 := rfl

/-- The note of a word whose lowest set bit is `j` (R78). -/
theorem noteIndex_of_lowest (ch : Channel) {m : StepWord} {j : Nat} (h : m.getLsbD j = true)
    (hlow : ∀ k, k < j → m.getLsbD k = false) : noteIndex ch m = (Config.noteBase ch.num).val + j := by
  have hm : m ≠ 0#16 := by rintro rfl; simp at h
  rw [noteIndex, if_neg hm, noteOf, ctz_eq h hlow]
  push_cast
  rfl

/-- A word has no note iff it is zero: `NOTE_BASE` is not negative (R78, U6). -/
theorem noteIndex_eq_neg_one_iff (ch : Channel) (m : StepWord) : noteIndex ch m = -1 ↔ m = 0#16 := by
  constructor
  · intro h
    by_contra hm
    obtain ⟨j, hj, hl⟩ := exists_lowest hm
    rw [noteIndex_of_lowest ch hj hl] at h
    omega
  · rintro rfl; rfl

/-! ### Per channel -/

@[simp] theorem PerChannel.get_set_same {α : Type} (p : PerChannel α) (ch : Channel) (x : α) : (p.set ch x).get ch = x := by
  cases ch <;> rfl

theorem PerChannel.get_set_other {α : Type} (p : PerChannel α) {ch ch' : Channel} (h : ch' ≠ ch) (x : α) :
    (p.set ch x).get ch' = p.get ch' := by
  cases ch <;> cases ch' <;> first | rfl | exact absurd rfl h

@[simp] theorem activePitched_eq_true (note : Int) (freq : V) : activePitched note freq = true ↔ note ≠ -1 ∧ 0 < freq := by
  simp [activePitched]

@[simp] theorem activeNoise_eq_true (note : Int) : activeNoise note = true ↔ note ≠ -1 := by
  simp [activeNoise]

end Sys2Proof.Machine
end

