-- ==== Sys2Proof/Laws/PerInstr.lean ====
section
/-! SUPPORT. One lemma per constructor: the word of an operation matches its row of the opcode table (R73), and an operation without a row
has no word (R74, R200). -/

namespace Sys2Proof.Laws.FitsRow

/-- The word of `i` is `match` under `mask`, as the opcode table prints them; no word without a row. -/
def Statement (i : Instr) : Prop :=
  match encode i, i.matchMask with
  | some w, some (m, k) => w &&& k = m
  | none, none => True
  | _, _ => False

/-- A packed word under a mask, field by field. -/
theorem pack_and_eq {op : BitVec 8} {ch : BitVec 2} {step : BitVec 16} {arg : BitVec 32} {m k : CmdWord}
    (h1 : op &&& opField k = opField m) (h2 : zeroField m = 0#6) (h3 : ch &&& chField k = chField m)
    (h4 : step &&& stepField k = stepField m) (h5 : arg &&& argField k = argField m) :
    packFields op ch step arg &&& k = m := by
  rw [cmdWord_ext_iff]
  simp only [opField_and, zeroField_and, chField_and, stepField_and, argField_and, opField_pack, zeroField_pack, chField_pack,
    stepField_pack, argField_pack]
  exact ⟨h1, by simp [h2], h3, h4, h5⟩

/-- A value of few bits has none above them. -/
theorem setWidth_and_eq_zero {n : Nat} (x : BitVec n) (k : BitVec 32) (h : ∀ i, i < n → k.getLsbD i = false) :
    x.setWidth 32 &&& k = 0#32 := by
  refine BitVec.eq_of_getLsbD_eq fun i _ => ?_
  by_cases hi : i < n
  · simp [h i hi]
  · simp [BitVec.getLsbD_of_ge x i (by omega)]

theorem select (ch : Channel) (step : BitVec 16) (slot : BitVec 4) : Statement (.select ch step slot) := pack_and_eq (by decide) (by decide) (by cases ch <;> decide) (by simp [stepField]) (setWidth_and_eq_zero _ _ (by decide))

theorem isSel (ch : Channel) (step : BitVec 16) (slot : BitVec 4) : Statement (.isSel ch step slot) := pack_and_eq (by decide) (by decide) (by cases ch <;> decide) (by simp [stepField]) (setWidth_and_eq_zero _ _ (by decide))

theorem noteIdx (ch : Channel) (step : BitVec 16) : Statement (.noteIdx ch step) := pack_and_eq (by decide) (by decide) (by cases ch <;> decide) (by simp [stepField]) (by decide)

theorem grow (cnt : BitVec 16) : Statement (.grow cnt) := pack_and_eq (by decide) (by decide) (by decide) (by decide) (setWidth_and_eq_zero _ _ (by decide))

theorem shrink (cnt : BitVec 16) : Statement (.shrink cnt) := pack_and_eq (by decide) (by decide) (by decide) (by decide) (setWidth_and_eq_zero _ _ (by decide))

theorem getLen : Statement .getLen := pack_and_eq (by decide) (by decide) (by decide) (by decide) (by decide)

theorem newTrack : Statement .newTrack := pack_and_eq (by decide) (by decide) (by decide) (by decide) (by decide)

theorem wrStep (ch : Channel) (step mask : BitVec 16) : Statement (.wrStep ch step mask) := pack_and_eq (by decide) (by decide) (by cases ch <;> decide) (by simp [stepField]) (setWidth_and_eq_zero _ _ (by decide))

theorem rdStep (ch : Channel) (step : BitVec 16) : Statement (.rdStep ch step) := pack_and_eq (by decide) (by decide) (by cases ch <;> decide) (by simp [stepField]) (by decide)

theorem setTempo (bpm : BitVec 16) : Statement (.setTempo bpm) := pack_and_eq (by decide) (by decide) (by decide) (by decide) (setWidth_and_eq_zero _ _ (by decide))

theorem setVol (vol : BitVec 7) : Statement (.setVol vol) := pack_and_eq (by decide) (by decide) (by decide) (by decide) (setWidth_and_eq_zero _ _ (by decide))

theorem setMode (mode : BitVec 2) : Statement (.setMode mode) := pack_and_eq (by decide) (by decide) (by decide) (by decide) (setWidth_and_eq_zero _ _ (by decide))

theorem play : Statement .play := pack_and_eq (by decide) (by decide) (by decide) (by decide) (by decide)

theorem stop : Statement .stop := pack_and_eq (by decide) (by decide) (by decide) (by decide) (by decide)

theorem tick : Statement .tick := pack_and_eq (by decide) (by decide) (by decide) (by decide) (by decide)

theorem stepIdx : Statement .stepIdx := trivial

theorem note (ch : Channel) : Statement (.note ch) := trivial

theorem freqHw (ch : Channel) : Statement (.freqHw ch) := trivial

theorem freqEt (ch : Channel) : Statement (.freqEt ch) := trivial

theorem pulseA : Statement .pulseA := trivial

theorem pulseB : Statement .pulseB := trivial

theorem tri : Statement .tri := trivial

theorem noise : Statement .noise := trivial

theorem mixPulse : Statement .mixPulse := trivial

theorem mixTnd : Statement .mixTnd := trivial

theorem mixSum : Statement .mixSum := trivial

theorem hpfA : Statement .hpfA := trivial

theorem hpfB : Statement .hpfB := trivial

theorem lpf : Statement .lpf := trivial

theorem gain : Statement .gain := trivial

theorem reset : Statement .reset := trivial

end Sys2Proof.Laws.FitsRow
end

