-- ==== Sys2Proof/Laws/State.lean ====
section
/-! SUPPORT. One lemma per field per named update of State, true by rfl: later proofs rewrite with them and do not unfold an update. -/

namespace Sys2Proof.Machine

/-! ### respond -/

@[simp] theorem State.respond_live (s : State) (st : Status) (v : RespValue) : (s.respond st v).live = s.live := rfl
@[simp] theorem State.respond_tempo (s : State) (st : Status) (v : RespValue) : (s.respond st v).tempo = s.tempo := rfl
@[simp] theorem State.respond_volume (s : State) (st : Status) (v : RespValue) : (s.respond st v).volume = s.volume := rfl
@[simp] theorem State.respond_mode (s : State) (st : Status) (v : RespValue) : (s.respond st v).mode = s.mode := rfl
@[simp] theorem State.respond_run (s : State) (st : Status) (v : RespValue) : (s.respond st v).run = s.run := rfl
@[simp] theorem State.respond_cancel (s : State) (st : Status) (v : RespValue) : (s.respond st v).cancel = s.cancel := rfl
@[simp] theorem State.respond_n (s : State) (st : Status) (v : RespValue) : (s.respond st v).n = s.n := rfl
@[simp] theorem State.respond_nEnd (s : State) (st : Status) (v : RespValue) : (s.respond st v).nEnd = s.nEnd := rfl
@[simp] theorem State.respond_snap (s : State) (st : Status) (v : RespValue) : (s.respond st v).snap = s.snap := rfl
@[simp] theorem State.respond_sTempo (s : State) (st : Status) (v : RespValue) : (s.respond st v).sTempo = s.sTempo := rfl
@[simp] theorem State.respond_sVolume (s : State) (st : Status) (v : RespValue) : (s.respond st v).sVolume = s.sVolume := rfl
@[simp] theorem State.respond_sMode (s : State) (st : Status) (v : RespValue) : (s.respond st v).sMode = s.sMode := rfl
@[simp] theorem State.respond_hpa (s : State) (st : Status) (v : RespValue) : (s.respond st v).hpa = s.hpa := rfl
@[simp] theorem State.respond_hpb (s : State) (st : Status) (v : RespValue) : (s.respond st v).hpb = s.hpb := rfl
@[simp] theorem State.respond_lp (s : State) (st : Status) (v : RespValue) : (s.respond st v).lp = s.lp := rfl
@[simp] theorem State.respond_dp (s : State) (st : Status) (v : RespValue) : (s.respond st v).dp = s.dp := rfl
@[simp] theorem State.respond_free (s : State) (st : Status) (v : RespValue) : (s.respond st v).free = s.free := rfl
@[simp] theorem State.respond_inbox (s : State) (st : Status) (v : RespValue) : (s.respond st v).inbox = s.inbox := rfl
@[simp] theorem State.respond_resp (s : State) (st : Status) (v : RespValue) : (s.respond st v).resp = some ⟨st, v⟩ := rfl

/-! ### answer -/

@[simp] theorem State.answer_live (s : State) (w : RespWord) : (s.answer w).live = s.live := rfl
@[simp] theorem State.answer_tempo (s : State) (w : RespWord) : (s.answer w).tempo = s.tempo := rfl
@[simp] theorem State.answer_volume (s : State) (w : RespWord) : (s.answer w).volume = s.volume := rfl
@[simp] theorem State.answer_mode (s : State) (w : RespWord) : (s.answer w).mode = s.mode := rfl
@[simp] theorem State.answer_run (s : State) (w : RespWord) : (s.answer w).run = s.run := rfl
@[simp] theorem State.answer_cancel (s : State) (w : RespWord) : (s.answer w).cancel = s.cancel := rfl
@[simp] theorem State.answer_n (s : State) (w : RespWord) : (s.answer w).n = s.n := rfl
@[simp] theorem State.answer_nEnd (s : State) (w : RespWord) : (s.answer w).nEnd = s.nEnd := rfl
@[simp] theorem State.answer_snap (s : State) (w : RespWord) : (s.answer w).snap = s.snap := rfl
@[simp] theorem State.answer_sTempo (s : State) (w : RespWord) : (s.answer w).sTempo = s.sTempo := rfl
@[simp] theorem State.answer_sVolume (s : State) (w : RespWord) : (s.answer w).sVolume = s.sVolume := rfl
@[simp] theorem State.answer_sMode (s : State) (w : RespWord) : (s.answer w).sMode = s.sMode := rfl
@[simp] theorem State.answer_hpa (s : State) (w : RespWord) : (s.answer w).hpa = s.hpa := rfl
@[simp] theorem State.answer_hpb (s : State) (w : RespWord) : (s.answer w).hpb = s.hpb := rfl
@[simp] theorem State.answer_lp (s : State) (w : RespWord) : (s.answer w).lp = s.lp := rfl
@[simp] theorem State.answer_dp (s : State) (w : RespWord) : (s.answer w).dp = s.dp := rfl
@[simp] theorem State.answer_free (s : State) (w : RespWord) : (s.answer w).free = s.free := rfl
@[simp] theorem State.answer_inbox (s : State) (w : RespWord) : (s.answer w).inbox = s.inbox := rfl
@[simp] theorem State.answer_resp (s : State) (w : RespWord) : (s.answer w).resp = some ⟨.ok, .word w⟩ := rfl

/-! ### respondEnd -/

@[simp] theorem State.respondEnd_live (s : State) : (s.respondEnd).live = s.live := rfl
@[simp] theorem State.respondEnd_tempo (s : State) : (s.respondEnd).tempo = s.tempo := rfl
@[simp] theorem State.respondEnd_volume (s : State) : (s.respondEnd).volume = s.volume := rfl
@[simp] theorem State.respondEnd_mode (s : State) : (s.respondEnd).mode = s.mode := rfl
@[simp] theorem State.respondEnd_run (s : State) : (s.respondEnd).run = s.run := rfl
@[simp] theorem State.respondEnd_cancel (s : State) : (s.respondEnd).cancel = s.cancel := rfl
@[simp] theorem State.respondEnd_n (s : State) : (s.respondEnd).n = s.n := rfl
@[simp] theorem State.respondEnd_nEnd (s : State) : (s.respondEnd).nEnd = s.nEnd := rfl
@[simp] theorem State.respondEnd_snap (s : State) : (s.respondEnd).snap = s.snap := rfl
@[simp] theorem State.respondEnd_sTempo (s : State) : (s.respondEnd).sTempo = s.sTempo := rfl
@[simp] theorem State.respondEnd_sVolume (s : State) : (s.respondEnd).sVolume = s.sVolume := rfl
@[simp] theorem State.respondEnd_sMode (s : State) : (s.respondEnd).sMode = s.sMode := rfl
@[simp] theorem State.respondEnd_hpa (s : State) : (s.respondEnd).hpa = s.hpa := rfl
@[simp] theorem State.respondEnd_hpb (s : State) : (s.respondEnd).hpb = s.hpb := rfl
@[simp] theorem State.respondEnd_lp (s : State) : (s.respondEnd).lp = s.lp := rfl
@[simp] theorem State.respondEnd_dp (s : State) : (s.respondEnd).dp = s.dp := rfl
@[simp] theorem State.respondEnd_free (s : State) : (s.respondEnd).free = s.free := rfl
@[simp] theorem State.respondEnd_inbox (s : State) : (s.respondEnd).inbox = s.inbox := rfl
@[simp] theorem State.respondEnd_resp (s : State) : (s.respondEnd).resp = some ⟨.endOfRender, .sample 0⟩ := rfl

/-! ### setLive -/

@[simp] theorem State.setLive_live (s : State) (m : Memory) : (s.setLive m).live = m := rfl
@[simp] theorem State.setLive_tempo (s : State) (m : Memory) : (s.setLive m).tempo = s.tempo := rfl
@[simp] theorem State.setLive_volume (s : State) (m : Memory) : (s.setLive m).volume = s.volume := rfl
@[simp] theorem State.setLive_mode (s : State) (m : Memory) : (s.setLive m).mode = s.mode := rfl
@[simp] theorem State.setLive_run (s : State) (m : Memory) : (s.setLive m).run = s.run := rfl
@[simp] theorem State.setLive_cancel (s : State) (m : Memory) : (s.setLive m).cancel = s.cancel := rfl
@[simp] theorem State.setLive_n (s : State) (m : Memory) : (s.setLive m).n = s.n := rfl
@[simp] theorem State.setLive_nEnd (s : State) (m : Memory) : (s.setLive m).nEnd = s.nEnd := rfl
@[simp] theorem State.setLive_snap (s : State) (m : Memory) : (s.setLive m).snap = s.snap := rfl
@[simp] theorem State.setLive_sTempo (s : State) (m : Memory) : (s.setLive m).sTempo = s.sTempo := rfl
@[simp] theorem State.setLive_sVolume (s : State) (m : Memory) : (s.setLive m).sVolume = s.sVolume := rfl
@[simp] theorem State.setLive_sMode (s : State) (m : Memory) : (s.setLive m).sMode = s.sMode := rfl
@[simp] theorem State.setLive_hpa (s : State) (m : Memory) : (s.setLive m).hpa = s.hpa := rfl
@[simp] theorem State.setLive_hpb (s : State) (m : Memory) : (s.setLive m).hpb = s.hpb := rfl
@[simp] theorem State.setLive_lp (s : State) (m : Memory) : (s.setLive m).lp = s.lp := rfl
@[simp] theorem State.setLive_dp (s : State) (m : Memory) : (s.setLive m).dp = s.dp := rfl
@[simp] theorem State.setLive_free (s : State) (m : Memory) : (s.setLive m).free = s.free := rfl
@[simp] theorem State.setLive_inbox (s : State) (m : Memory) : (s.setLive m).inbox = s.inbox := rfl
@[simp] theorem State.setLive_resp (s : State) (m : Memory) : (s.setLive m).resp = s.resp := rfl

/-! ### setDp -/

@[simp] theorem State.setDp_live (s : State) (d : Datapath) : (s.setDp d).live = s.live := rfl
@[simp] theorem State.setDp_tempo (s : State) (d : Datapath) : (s.setDp d).tempo = s.tempo := rfl
@[simp] theorem State.setDp_volume (s : State) (d : Datapath) : (s.setDp d).volume = s.volume := rfl
@[simp] theorem State.setDp_mode (s : State) (d : Datapath) : (s.setDp d).mode = s.mode := rfl
@[simp] theorem State.setDp_run (s : State) (d : Datapath) : (s.setDp d).run = s.run := rfl
@[simp] theorem State.setDp_cancel (s : State) (d : Datapath) : (s.setDp d).cancel = s.cancel := rfl
@[simp] theorem State.setDp_n (s : State) (d : Datapath) : (s.setDp d).n = s.n := rfl
@[simp] theorem State.setDp_nEnd (s : State) (d : Datapath) : (s.setDp d).nEnd = s.nEnd := rfl
@[simp] theorem State.setDp_snap (s : State) (d : Datapath) : (s.setDp d).snap = s.snap := rfl
@[simp] theorem State.setDp_sTempo (s : State) (d : Datapath) : (s.setDp d).sTempo = s.sTempo := rfl
@[simp] theorem State.setDp_sVolume (s : State) (d : Datapath) : (s.setDp d).sVolume = s.sVolume := rfl
@[simp] theorem State.setDp_sMode (s : State) (d : Datapath) : (s.setDp d).sMode = s.sMode := rfl
@[simp] theorem State.setDp_hpa (s : State) (d : Datapath) : (s.setDp d).hpa = s.hpa := rfl
@[simp] theorem State.setDp_hpb (s : State) (d : Datapath) : (s.setDp d).hpb = s.hpb := rfl
@[simp] theorem State.setDp_lp (s : State) (d : Datapath) : (s.setDp d).lp = s.lp := rfl
@[simp] theorem State.setDp_dp (s : State) (d : Datapath) : (s.setDp d).dp = d := rfl
@[simp] theorem State.setDp_free (s : State) (d : Datapath) : (s.setDp d).free = s.free := rfl
@[simp] theorem State.setDp_inbox (s : State) (d : Datapath) : (s.setDp d).inbox = s.inbox := rfl
@[simp] theorem State.setDp_resp (s : State) (d : Datapath) : (s.setDp d).resp = s.resp := rfl

/-! ### advanceFree -/

@[simp] theorem State.advanceFree_live (s : State) : (s.advanceFree).live = s.live := rfl
@[simp] theorem State.advanceFree_tempo (s : State) : (s.advanceFree).tempo = s.tempo := rfl
@[simp] theorem State.advanceFree_volume (s : State) : (s.advanceFree).volume = s.volume := rfl
@[simp] theorem State.advanceFree_mode (s : State) : (s.advanceFree).mode = s.mode := rfl
@[simp] theorem State.advanceFree_run (s : State) : (s.advanceFree).run = s.run := rfl
@[simp] theorem State.advanceFree_cancel (s : State) : (s.advanceFree).cancel = s.cancel := rfl
@[simp] theorem State.advanceFree_n (s : State) : (s.advanceFree).n = s.n := rfl
@[simp] theorem State.advanceFree_nEnd (s : State) : (s.advanceFree).nEnd = s.nEnd := rfl
@[simp] theorem State.advanceFree_snap (s : State) : (s.advanceFree).snap = s.snap := rfl
@[simp] theorem State.advanceFree_sTempo (s : State) : (s.advanceFree).sTempo = s.sTempo := rfl
@[simp] theorem State.advanceFree_sVolume (s : State) : (s.advanceFree).sVolume = s.sVolume := rfl
@[simp] theorem State.advanceFree_sMode (s : State) : (s.advanceFree).sMode = s.sMode := rfl
@[simp] theorem State.advanceFree_hpa (s : State) : (s.advanceFree).hpa = s.hpa := rfl
@[simp] theorem State.advanceFree_hpb (s : State) : (s.advanceFree).hpb = s.hpb := rfl
@[simp] theorem State.advanceFree_lp (s : State) : (s.advanceFree).lp = s.lp := rfl
@[simp] theorem State.advanceFree_dp (s : State) : (s.advanceFree).dp = s.dp := rfl
@[simp] theorem State.advanceFree_free (s : State) : (s.advanceFree).free = s.free + 1 := rfl
@[simp] theorem State.advanceFree_inbox (s : State) : (s.advanceFree).inbox = s.inbox := rfl
@[simp] theorem State.advanceFree_resp (s : State) : (s.advanceFree).resp = s.resp := rfl

/-! ### raiseCancel -/

@[simp] theorem State.raiseCancel_live (s : State) : (s.raiseCancel).live = s.live := rfl
@[simp] theorem State.raiseCancel_tempo (s : State) : (s.raiseCancel).tempo = s.tempo := rfl
@[simp] theorem State.raiseCancel_volume (s : State) : (s.raiseCancel).volume = s.volume := rfl
@[simp] theorem State.raiseCancel_mode (s : State) : (s.raiseCancel).mode = s.mode := rfl
@[simp] theorem State.raiseCancel_run (s : State) : (s.raiseCancel).run = s.run := rfl
@[simp] theorem State.raiseCancel_cancel (s : State) : (s.raiseCancel).cancel = true := rfl
@[simp] theorem State.raiseCancel_n (s : State) : (s.raiseCancel).n = s.n := rfl
@[simp] theorem State.raiseCancel_nEnd (s : State) : (s.raiseCancel).nEnd = s.nEnd := rfl
@[simp] theorem State.raiseCancel_snap (s : State) : (s.raiseCancel).snap = s.snap := rfl
@[simp] theorem State.raiseCancel_sTempo (s : State) : (s.raiseCancel).sTempo = s.sTempo := rfl
@[simp] theorem State.raiseCancel_sVolume (s : State) : (s.raiseCancel).sVolume = s.sVolume := rfl
@[simp] theorem State.raiseCancel_sMode (s : State) : (s.raiseCancel).sMode = s.sMode := rfl
@[simp] theorem State.raiseCancel_hpa (s : State) : (s.raiseCancel).hpa = s.hpa := rfl
@[simp] theorem State.raiseCancel_hpb (s : State) : (s.raiseCancel).hpb = s.hpb := rfl
@[simp] theorem State.raiseCancel_lp (s : State) : (s.raiseCancel).lp = s.lp := rfl
@[simp] theorem State.raiseCancel_dp (s : State) : (s.raiseCancel).dp = s.dp := rfl
@[simp] theorem State.raiseCancel_free (s : State) : (s.raiseCancel).free = s.free := rfl
@[simp] theorem State.raiseCancel_inbox (s : State) : (s.raiseCancel).inbox = s.inbox := rfl
@[simp] theorem State.raiseCancel_resp (s : State) : (s.raiseCancel).resp = s.resp := rfl

/-! ### clearCancel -/

@[simp] theorem State.clearCancel_live (s : State) : (s.clearCancel).live = s.live := rfl
@[simp] theorem State.clearCancel_tempo (s : State) : (s.clearCancel).tempo = s.tempo := rfl
@[simp] theorem State.clearCancel_volume (s : State) : (s.clearCancel).volume = s.volume := rfl
@[simp] theorem State.clearCancel_mode (s : State) : (s.clearCancel).mode = s.mode := rfl
@[simp] theorem State.clearCancel_run (s : State) : (s.clearCancel).run = s.run := rfl
@[simp] theorem State.clearCancel_cancel (s : State) : (s.clearCancel).cancel = false := rfl
@[simp] theorem State.clearCancel_n (s : State) : (s.clearCancel).n = s.n := rfl
@[simp] theorem State.clearCancel_nEnd (s : State) : (s.clearCancel).nEnd = s.nEnd := rfl
@[simp] theorem State.clearCancel_snap (s : State) : (s.clearCancel).snap = s.snap := rfl
@[simp] theorem State.clearCancel_sTempo (s : State) : (s.clearCancel).sTempo = s.sTempo := rfl
@[simp] theorem State.clearCancel_sVolume (s : State) : (s.clearCancel).sVolume = s.sVolume := rfl
@[simp] theorem State.clearCancel_sMode (s : State) : (s.clearCancel).sMode = s.sMode := rfl
@[simp] theorem State.clearCancel_hpa (s : State) : (s.clearCancel).hpa = s.hpa := rfl
@[simp] theorem State.clearCancel_hpb (s : State) : (s.clearCancel).hpb = s.hpb := rfl
@[simp] theorem State.clearCancel_lp (s : State) : (s.clearCancel).lp = s.lp := rfl
@[simp] theorem State.clearCancel_dp (s : State) : (s.clearCancel).dp = s.dp := rfl
@[simp] theorem State.clearCancel_free (s : State) : (s.clearCancel).free = s.free := rfl
@[simp] theorem State.clearCancel_inbox (s : State) : (s.clearCancel).inbox = s.inbox := rfl
@[simp] theorem State.clearCancel_resp (s : State) : (s.clearCancel).resp = s.resp := rfl

/-! ### setRun -/

@[simp] theorem State.setRun_live (s : State) (v : RunState) : (s.setRun v).live = s.live := rfl
@[simp] theorem State.setRun_tempo (s : State) (v : RunState) : (s.setRun v).tempo = s.tempo := rfl
@[simp] theorem State.setRun_volume (s : State) (v : RunState) : (s.setRun v).volume = s.volume := rfl
@[simp] theorem State.setRun_mode (s : State) (v : RunState) : (s.setRun v).mode = s.mode := rfl
@[simp] theorem State.setRun_run (s : State) (v : RunState) : (s.setRun v).run = v := rfl
@[simp] theorem State.setRun_cancel (s : State) (v : RunState) : (s.setRun v).cancel = s.cancel := rfl
@[simp] theorem State.setRun_n (s : State) (v : RunState) : (s.setRun v).n = s.n := rfl
@[simp] theorem State.setRun_nEnd (s : State) (v : RunState) : (s.setRun v).nEnd = s.nEnd := rfl
@[simp] theorem State.setRun_snap (s : State) (v : RunState) : (s.setRun v).snap = s.snap := rfl
@[simp] theorem State.setRun_sTempo (s : State) (v : RunState) : (s.setRun v).sTempo = s.sTempo := rfl
@[simp] theorem State.setRun_sVolume (s : State) (v : RunState) : (s.setRun v).sVolume = s.sVolume := rfl
@[simp] theorem State.setRun_sMode (s : State) (v : RunState) : (s.setRun v).sMode = s.sMode := rfl
@[simp] theorem State.setRun_hpa (s : State) (v : RunState) : (s.setRun v).hpa = s.hpa := rfl
@[simp] theorem State.setRun_hpb (s : State) (v : RunState) : (s.setRun v).hpb = s.hpb := rfl
@[simp] theorem State.setRun_lp (s : State) (v : RunState) : (s.setRun v).lp = s.lp := rfl
@[simp] theorem State.setRun_dp (s : State) (v : RunState) : (s.setRun v).dp = s.dp := rfl
@[simp] theorem State.setRun_free (s : State) (v : RunState) : (s.setRun v).free = s.free := rfl
@[simp] theorem State.setRun_inbox (s : State) (v : RunState) : (s.setRun v).inbox = s.inbox := rfl
@[simp] theorem State.setRun_resp (s : State) (v : RunState) : (s.setRun v).resp = s.resp := rfl

/-! ### capture -/

@[simp] theorem State.capture_live (s : State) : (s.capture).live = s.live := rfl
@[simp] theorem State.capture_tempo (s : State) : (s.capture).tempo = s.tempo := rfl
@[simp] theorem State.capture_volume (s : State) : (s.capture).volume = s.volume := rfl
@[simp] theorem State.capture_mode (s : State) : (s.capture).mode = s.mode := rfl
@[simp] theorem State.capture_run (s : State) : (s.capture).run = s.run := rfl
@[simp] theorem State.capture_cancel (s : State) : (s.capture).cancel = s.cancel := rfl
@[simp] theorem State.capture_n (s : State) : (s.capture).n = s.n := rfl
@[simp] theorem State.capture_nEnd (s : State) : (s.capture).nEnd = s.nEnd := rfl
@[simp] theorem State.capture_snap (s : State) : (s.capture).snap = s.live := rfl
@[simp] theorem State.capture_sTempo (s : State) : (s.capture).sTempo = s.tempo := rfl
@[simp] theorem State.capture_sVolume (s : State) : (s.capture).sVolume = s.volume := rfl
@[simp] theorem State.capture_sMode (s : State) : (s.capture).sMode = s.mode := rfl
@[simp] theorem State.capture_hpa (s : State) : (s.capture).hpa = s.hpa := rfl
@[simp] theorem State.capture_hpb (s : State) : (s.capture).hpb = s.hpb := rfl
@[simp] theorem State.capture_lp (s : State) : (s.capture).lp = s.lp := rfl
@[simp] theorem State.capture_dp (s : State) : (s.capture).dp = s.dp := rfl
@[simp] theorem State.capture_free (s : State) : (s.capture).free = s.free := rfl
@[simp] theorem State.capture_inbox (s : State) : (s.capture).inbox = s.inbox := rfl
@[simp] theorem State.capture_resp (s : State) : (s.capture).resp = s.resp := rfl

/-! ### resetRender -/

@[simp] theorem State.resetRender_live (s : State) : (s.resetRender).live = s.live := rfl
@[simp] theorem State.resetRender_tempo (s : State) : (s.resetRender).tempo = s.tempo := rfl
@[simp] theorem State.resetRender_volume (s : State) : (s.resetRender).volume = s.volume := rfl
@[simp] theorem State.resetRender_mode (s : State) : (s.resetRender).mode = s.mode := rfl
@[simp] theorem State.resetRender_run (s : State) : (s.resetRender).run = s.run := rfl
@[simp] theorem State.resetRender_cancel (s : State) : (s.resetRender).cancel = s.cancel := rfl
@[simp] theorem State.resetRender_n (s : State) : (s.resetRender).n = 0 := rfl
@[simp] theorem State.resetRender_nEnd (s : State) : (s.resetRender).nEnd = renderLength s.snap.len s.sTempo.toNat := rfl
@[simp] theorem State.resetRender_snap (s : State) : (s.resetRender).snap = s.snap := rfl
@[simp] theorem State.resetRender_sTempo (s : State) : (s.resetRender).sTempo = s.sTempo := rfl
@[simp] theorem State.resetRender_sVolume (s : State) : (s.resetRender).sVolume = s.sVolume := rfl
@[simp] theorem State.resetRender_sMode (s : State) : (s.resetRender).sMode = s.sMode := rfl
@[simp] theorem State.resetRender_hpa (s : State) : (s.resetRender).hpa = Filter.zero := rfl
@[simp] theorem State.resetRender_hpb (s : State) : (s.resetRender).hpb = Filter.zero := rfl
@[simp] theorem State.resetRender_lp (s : State) : (s.resetRender).lp = Filter.zero := rfl
@[simp] theorem State.resetRender_dp (s : State) : (s.resetRender).dp = s.dp := rfl
@[simp] theorem State.resetRender_free (s : State) : (s.resetRender).free = s.free := rfl
@[simp] theorem State.resetRender_inbox (s : State) : (s.resetRender).inbox = s.inbox := rfl
@[simp] theorem State.resetRender_resp (s : State) : (s.resetRender).resp = s.resp := rfl

/-! ### deliver -/

@[simp] theorem State.deliver_live (s : State) : (s.deliver).live = s.live := rfl
@[simp] theorem State.deliver_tempo (s : State) : (s.deliver).tempo = s.tempo := rfl
@[simp] theorem State.deliver_volume (s : State) : (s.deliver).volume = s.volume := rfl
@[simp] theorem State.deliver_mode (s : State) : (s.deliver).mode = s.mode := rfl
@[simp] theorem State.deliver_run (s : State) : (s.deliver).run = s.run := rfl
@[simp] theorem State.deliver_cancel (s : State) : (s.deliver).cancel = s.cancel := rfl
@[simp] theorem State.deliver_n (s : State) : (s.deliver).n = s.n + 1 := rfl
@[simp] theorem State.deliver_nEnd (s : State) : (s.deliver).nEnd = s.nEnd := rfl
@[simp] theorem State.deliver_snap (s : State) : (s.deliver).snap = s.snap := rfl
@[simp] theorem State.deliver_sTempo (s : State) : (s.deliver).sTempo = s.sTempo := rfl
@[simp] theorem State.deliver_sVolume (s : State) : (s.deliver).sVolume = s.sVolume := rfl
@[simp] theorem State.deliver_sMode (s : State) : (s.deliver).sMode = s.sMode := rfl
@[simp] theorem State.deliver_hpa (s : State) : (s.deliver).hpa = s.hpa := rfl
@[simp] theorem State.deliver_hpb (s : State) : (s.deliver).hpb = s.hpb := rfl
@[simp] theorem State.deliver_lp (s : State) : (s.deliver).lp = s.lp := rfl
@[simp] theorem State.deliver_dp (s : State) : (s.deliver).dp = Datapath.cleared := rfl
@[simp] theorem State.deliver_free (s : State) : (s.deliver).free = s.free := rfl
@[simp] theorem State.deliver_inbox (s : State) : (s.deliver).inbox = s.inbox := rfl
@[simp] theorem State.deliver_resp (s : State) : (s.deliver).resp = some ⟨.ok, .sample (rnd s.dp.out)⟩ := rfl

/-! ### withInbox -/

@[simp] theorem State.withInbox_live (s : State) (e : List Event) : (s.withInbox e).live = s.live := rfl
@[simp] theorem State.withInbox_tempo (s : State) (e : List Event) : (s.withInbox e).tempo = s.tempo := rfl
@[simp] theorem State.withInbox_volume (s : State) (e : List Event) : (s.withInbox e).volume = s.volume := rfl
@[simp] theorem State.withInbox_mode (s : State) (e : List Event) : (s.withInbox e).mode = s.mode := rfl
@[simp] theorem State.withInbox_run (s : State) (e : List Event) : (s.withInbox e).run = s.run := rfl
@[simp] theorem State.withInbox_cancel (s : State) (e : List Event) : (s.withInbox e).cancel = s.cancel := rfl
@[simp] theorem State.withInbox_n (s : State) (e : List Event) : (s.withInbox e).n = s.n := rfl
@[simp] theorem State.withInbox_nEnd (s : State) (e : List Event) : (s.withInbox e).nEnd = s.nEnd := rfl
@[simp] theorem State.withInbox_snap (s : State) (e : List Event) : (s.withInbox e).snap = s.snap := rfl
@[simp] theorem State.withInbox_sTempo (s : State) (e : List Event) : (s.withInbox e).sTempo = s.sTempo := rfl
@[simp] theorem State.withInbox_sVolume (s : State) (e : List Event) : (s.withInbox e).sVolume = s.sVolume := rfl
@[simp] theorem State.withInbox_sMode (s : State) (e : List Event) : (s.withInbox e).sMode = s.sMode := rfl
@[simp] theorem State.withInbox_hpa (s : State) (e : List Event) : (s.withInbox e).hpa = s.hpa := rfl
@[simp] theorem State.withInbox_hpb (s : State) (e : List Event) : (s.withInbox e).hpb = s.hpb := rfl
@[simp] theorem State.withInbox_lp (s : State) (e : List Event) : (s.withInbox e).lp = s.lp := rfl
@[simp] theorem State.withInbox_dp (s : State) (e : List Event) : (s.withInbox e).dp = s.dp := rfl
@[simp] theorem State.withInbox_free (s : State) (e : List Event) : (s.withInbox e).free = s.free := rfl
@[simp] theorem State.withInbox_inbox (s : State) (e : List Event) : (s.withInbox e).inbox = e := rfl
@[simp] theorem State.withInbox_resp (s : State) (e : List Event) : (s.withInbox e).resp = s.resp := rfl

/-! ### after RESET -/

@[simp] theorem State.afterReset_live (k : Nat) (e : List Event) : (State.afterReset k e).live = Memory.empty := rfl
@[simp] theorem State.afterReset_tempo (k : Nat) (e : List Event) : (State.afterReset k e).tempo = Config.resetTempo k := rfl
@[simp] theorem State.afterReset_volume (k : Nat) (e : List Event) : (State.afterReset k e).volume = BitVec.ofNat 7 (Config.resetVolume k).val := rfl
@[simp] theorem State.afterReset_mode (k : Nat) (e : List Event) : (State.afterReset k e).mode = Config.resetMode k := rfl
@[simp] theorem State.afterReset_run (k : Nat) (e : List Event) : (State.afterReset k e).run = .idle := rfl
@[simp] theorem State.afterReset_cancel (k : Nat) (e : List Event) : (State.afterReset k e).cancel = false := rfl
@[simp] theorem State.afterReset_n (k : Nat) (e : List Event) : (State.afterReset k e).n = 0 := rfl
@[simp] theorem State.afterReset_nEnd (k : Nat) (e : List Event) : (State.afterReset k e).nEnd = 0 := rfl
@[simp] theorem State.afterReset_snap (k : Nat) (e : List Event) : (State.afterReset k e).snap = Memory.empty := rfl
@[simp] theorem State.afterReset_sTempo (k : Nat) (e : List Event) : (State.afterReset k e).sTempo = Config.resetSTempo k := rfl
@[simp] theorem State.afterReset_sVolume (k : Nat) (e : List Event) : (State.afterReset k e).sVolume = BitVec.ofNat 7 (Config.resetSVolume k).val := rfl
@[simp] theorem State.afterReset_sMode (k : Nat) (e : List Event) : (State.afterReset k e).sMode = Config.resetSMode k := rfl
@[simp] theorem State.afterReset_hpa (k : Nat) (e : List Event) : (State.afterReset k e).hpa = Filter.zero := rfl
@[simp] theorem State.afterReset_hpb (k : Nat) (e : List Event) : (State.afterReset k e).hpb = Filter.zero := rfl
@[simp] theorem State.afterReset_lp (k : Nat) (e : List Event) : (State.afterReset k e).lp = Filter.zero := rfl
@[simp] theorem State.afterReset_dp (k : Nat) (e : List Event) : (State.afterReset k e).dp = Datapath.cleared := rfl
@[simp] theorem State.afterReset_free (k : Nat) (e : List Event) : (State.afterReset k e).free = k + 1 := rfl
@[simp] theorem State.afterReset_inbox (k : Nat) (e : List Event) : (State.afterReset k e).inbox = e := rfl
@[simp] theorem State.afterReset_resp (k : Nat) (e : List Event) : (State.afterReset k e).resp = none := rfl

end Sys2Proof.Machine
end

