-- ==== Sys2Proof/Laws/Tick.lean ====
section
/-! SUPPORT. What TICK's stages do together, said once: the datapath of one sample, when all stages go through, and the only two ways they
stop. Later proofs cite these and do not unfold the stages. -/

namespace Sys2Proof.Machine

/-! ### Outcomes -/

@[simp] theorem andThen_next (s : State) (f : State → Host.Outcome State Fault Refusal) : andThen (.next s) f = f s := rfl

@[simp] theorem andThen_fault (r : Fault) (f : State → Host.Outcome State Fault Refusal) : andThen (.fault r) f = .fault r := rfl

@[simp] theorem andThen_refused (r : Refusal) (f : State → Host.Outcome State Fault Refusal) :
    andThen (.refused r) f = .refused r := rfl

theorem andThen_eq_next {o : Host.Outcome State Fault Refusal} {f : State → Host.Outcome State Fault Refusal} {t : State} :
    andThen o f = .next t ↔ ∃ s, o = .next s ∧ f s = .next t := by
  cases o <;> simp [andThen]

@[simp] theorem rnd_eq (x : V) : rnd x = x := rfl

/-! ### The datapath of one sample -/

/-- The frequency TICK leaves for a pitched channel: 0 if it has no note, else the selected strategy's (R114, R122). -/
def tickFreq (mode : BitVec 2) (note : Int) : V :=
  if note = -1 then 0 else if freqEtBit mode then freqEt note else freqHw note

/-- The output of the noise unit for the draw numbered `k` (R127). -/
def tickNoise (note : Int) (k : Nat) : GenOut := if activeNoise note then .level (Config.draw k) else .silent

/-- The values of all stages of one sample (R165), given the four words read and the triangle's output. -/
def tickDatapath (s : State) (wA wB wT wN : StepWord) (g : GenOut) : Datapath :=
  let notes : PerChannel Int := ⟨noteIndex .pulseA wA, noteIndex .pulseB wB, noteIndex .triangle wT, noteIndex .noise wN⟩
  let freq : PerChannel V :=
    ⟨tickFreq s.sMode notes.pulseA, tickFreq s.sMode notes.pulseB, tickFreq s.sMode notes.triangle, 0⟩
  let p1 := pulseUnit s.n notes.pulseA freq.pulseA
  let p2 := pulseUnit s.n notes.pulseB freq.pulseB
  let nz := tickNoise notes.noise s.free
  let pulseOut := mixPulse p1 p2
  let tndOut := mixTnd g nz
  let mixed := mixSum pulseOut tndOut
  let y1 := highPass s.hpa k1 mixed
  let y2 := highPass s.hpb k2 y1
  let y3 := lowPass s.lp y2
  { step := stepIndex s.n s.sTempo.toNat s.snap.len, note := notes, freq, p1, p2, t := g, nz, pulseOut, tndOut, mixed, y1, y2, y3,
    out := gain y3 s.sVolume }

/-- The state after a TICK that produced a sample with the datapath `d` (R165). -/
def tickResult (s : State) (d : Datapath) : State :=
  { s with
    n := s.n + 1
    hpa := ⟨d.mixed, d.y1⟩
    hpb := ⟨d.y1, d.y2⟩
    lp := ⟨d.y2, d.y3⟩
    dp := Datapath.cleared
    free := if activeNoise d.note.noise then s.free + 1 else s.free
    resp := some ⟨.ok, .sample d.out⟩ }

/-- The frequencies after the stage of one channel, for the notes and frequencies before it. -/
def stageFreq (mode : BitVec 2) (ch : Channel) (note : PerChannel Int) (freq : PerChannel V) : PerChannel V :=
  if note.get ch = -1 then freq else freq.set ch (if freqEtBit mode then freqEt (note.get ch) else freqHw (note.get ch))

theorem freqStage_eq (ch : Channel) (s : State) :
    freqStage ch s = s.setDp { s.dp with freq := stageFreq s.sMode ch s.dp.note s.dp.freq } := by
  unfold freqStage stageFreq
  by_cases h : s.dp.note.get ch = -1
  · simp only [if_pos h]; rfl
  · by_cases hm : freqEtBit s.sMode <;> simp only [if_neg h, hm] <;> rfl

theorem stageFreq_all (mode : BitVec 2) (note : PerChannel Int) :
    stageFreq mode .triangle note (stageFreq mode .pulseB note (stageFreq mode .pulseA note ⟨0, 0, 0, 0⟩)) =
      ⟨tickFreq mode note.pulseA, tickFreq mode note.pulseB, tickFreq mode note.triangle, 0⟩ := by
  unfold stageFreq tickFreq
  by_cases hA : note.pulseA = -1 <;> by_cases hB : note.pulseB = -1 <;> by_cases hT : note.triangle = -1 <;>
    simp [hA, hB, hT, PerChannel.set, PerChannel.get]

/-- The frequency stages after the notes: every pitched channel holds its `tickFreq`. -/
theorem freqStages_eq (s : State) (h : s.dp.freq = ⟨0, 0, 0, 0⟩) : freqStages s = s.setDp { s.dp with freq :=
    ⟨tickFreq s.sMode s.dp.note.pulseA, tickFreq s.sMode s.dp.note.pulseB, tickFreq s.sMode s.dp.note.triangle, 0⟩ } := by
  rw [← stageFreq_all, ← h]
  simp only [freqStages, freqStage_eq, State.setDp_dp, State.setDp_sMode]
  rfl

theorem noiseStage_eq (s : State) :
    noiseStage s = { s with
      dp := { s.dp with nz := tickNoise s.dp.note.noise s.free },
      free := if activeNoise s.dp.note.noise then s.free + 1 else s.free } := by
  unfold noiseStage tickNoise
  split <;> rfl

/-- The four NOTE stages when all four words exist. -/
theorem noteStages_some {s : State} {wA wB wT wN : StepWord}
    (hA : snapWord s.snap .pulseA s.dp.step = some wA) (hB : snapWord s.snap .pulseB s.dp.step = some wB)
    (hT : snapWord s.snap .triangle s.dp.step = some wT) (hN : snapWord s.snap .noise s.dp.step = some wN) :
    noteStages s = .next (s.setDp { s.dp with note :=
      ⟨noteIndex .pulseA wA, noteIndex .pulseB wB, noteIndex .triangle wT, noteIndex .noise wN⟩ }) := by
  simp only [noteStages, noteStage, State.setDp_snap, State.setDp_dp, hA, hB, hT, hN, andThen_next, PerChannel.set]
  rfl

theorem noteStages_none {s : State} (h : snapWord s.snap .pulseA s.dp.step = none) : noteStages s = .fault .noSuchStep := by
  simp only [noteStages, noteStage, h, andThen_fault]

/-- The state after the stages of orders 1 to 3 and the pulse units (R74). -/
def afterPulses (s : State) (wA wB wT wN : StepWord) : State :=
  let notes : PerChannel Int := ⟨noteIndex .pulseA wA, noteIndex .pulseB wB, noteIndex .triangle wT, noteIndex .noise wN⟩
  s.setDp { Datapath.cleared with
    step := stepIndex s.n s.sTempo.toNat s.snap.len,
    note := notes,
    freq := ⟨tickFreq s.sMode notes.pulseA, tickFreq s.sMode notes.pulseB, tickFreq s.sMode notes.triangle, 0⟩,
    p1 := pulseUnit s.n notes.pulseA (tickFreq s.sMode notes.pulseA),
    p2 := pulseUnit s.n notes.pulseB (tickFreq s.sMode notes.pulseB) }

theorem sampleStages_some {s : State} {wA wB wT wN : StepWord}
    (hA : snapWord s.snap .pulseA (stepIndex s.n s.sTempo.toNat s.snap.len) = some wA)
    (hB : snapWord s.snap .pulseB (stepIndex s.n s.sTempo.toNat s.snap.len) = some wB)
    (hT : snapWord s.snap .triangle (stepIndex s.n s.sTempo.toNat s.snap.len) = some wT)
    (hN : snapWord s.snap .noise (stepIndex s.n s.sTempo.toNat s.snap.len) = some wN) :
    sampleStages s = andThen (triStage (afterPulses s wA wB wT wN)) fun s => .next (outputStages (noiseStage s)) := by
  have e : noteStages (stepIdxStage (s.setDp Datapath.cleared)) = .next (s.setDp { Datapath.cleared with
      step := stepIndex s.n s.sTempo.toNat s.snap.len,
      note := ⟨noteIndex .pulseA wA, noteIndex .pulseB wB, noteIndex .triangle wT, noteIndex .noise wN⟩ }) :=
    noteStages_some (s := stepIdxStage (s.setDp Datapath.cleared)) hA hB hT hN
  unfold sampleStages
  rw [e, andThen_next, freqStages_eq _ rfl]
  rfl

/-- The values the mixer, the filters and the gain compute from the generators' outputs and the filter registers. -/
def outputDatapath (s : State) : Datapath :=
  let pulseOut := mixPulse s.dp.p1 s.dp.p2
  let tndOut := mixTnd s.dp.t s.dp.nz
  let mixed := mixSum pulseOut tndOut
  let y1 := highPass s.hpa k1 mixed
  let y2 := highPass s.hpb k2 y1
  let y3 := lowPass s.lp y2
  { s.dp with pulseOut, tndOut, mixed, y1, y2, y3, out := gain y3 s.sVolume }

theorem outputStages_eq (s : State) : outputStages s = { s with
    hpa := ⟨(outputDatapath s).mixed, (outputDatapath s).y1⟩,
    hpb := ⟨(outputDatapath s).y1, (outputDatapath s).y2⟩,
    lp := ⟨(outputDatapath s).y2, (outputDatapath s).y3⟩,
    dp := outputDatapath s } := by
  simp only [outputStages, gainStage, lpfStage, hpfBStage, hpfAStage, mixSumStage, mixTndStage, mixPulseStage, State.setDp,
    outputDatapath]

/-- All stages go through: the whole effect of `sampleStages`, then `deliver`. -/
theorem sample_next {s : State} {wA wB wT wN : StepWord} {g : GenOut}
    (hA : snapWord s.snap .pulseA (stepIndex s.n s.sTempo.toNat s.snap.len) = some wA)
    (hB : snapWord s.snap .pulseB (stepIndex s.n s.sTempo.toNat s.snap.len) = some wB)
    (hT : snapWord s.snap .triangle (stepIndex s.n s.sTempo.toNat s.snap.len) = some wT)
    (hN : snapWord s.snap .noise (stepIndex s.n s.sTempo.toNat s.snap.len) = some wN)
    (hg : triangle s.n (noteIndex .triangle wT) (tickFreq s.sMode (noteIndex .triangle wT)) (triLegacyBit s.sMode) = some g) :
    (andThen (sampleStages s) fun s => .next s.deliver) = .next (tickResult s (tickDatapath s wA wB wT wN g)) := by
  have e : triStage (afterPulses s wA wB wT wN) =
      .next ((afterPulses s wA wB wT wN).setDp { (afterPulses s wA wB wT wN).dp with t := g }) := by
    unfold triStage
    have : triangle (afterPulses s wA wB wT wN).n (afterPulses s wA wB wT wN).dp.note.triangle
      (afterPulses s wA wB wT wN).dp.freq.triangle (triLegacyBit (afterPulses s wA wB wT wN).sMode) = some g := hg
    rw [this]
  rw [sampleStages_some hA hB hT hN, e, andThen_next, andThen_next, noiseStage_eq, outputStages_eq]
  simp only [State.deliver, State.respond, rnd_eq, tickResult, outputDatapath, tickDatapath, afterPulses, State.setDp]
  congr 2

/-- Whether an address exists does not depend on the channel. -/
theorem snapWord_isSome (m : Memory) (ch : Channel) (i : Int) : (snapWord m ch i).isSome ↔ 0 ≤ i ∧ i.toNat < m.len := by
  unfold snapWord
  split <;> simp_all [Memory.read_isSome_iff]

theorem snapWord_eq_some {m : Memory} {ch : Channel} {i : Int} (h : 0 ≤ i ∧ i.toNat < m.len) : ∃ w, snapWord m ch i = some w :=
  Option.isSome_iff_exists.1 ((snapWord_isSome m ch i).2 h)

theorem snapWord_eq_none {m : Memory} {ch : Channel} {i : Int} (h : ¬ (0 ≤ i ∧ i.toNat < m.len)) : snapWord m ch i = none := by
  rw [← Option.not_isSome_iff_eq_none, snapWord_isSome]; exact h

/-- The step index names no word: the sample's first NOTE stage faults. -/
theorem sample_fault {s : State} (h : ¬ (0 ≤ stepIndex s.n s.sTempo.toNat s.snap.len ∧
    (stepIndex s.n s.sTempo.toNat s.snap.len).toNat < s.snap.len)) : sampleStages s = .fault .noSuchStep := by
  have e : noteStages (stepIdxStage (s.setDp Datapath.cleared)) = .fault .noSuchStep := noteStages_none (snapWord_eq_none h)
  unfold sampleStages
  rw [e, andThen_fault]

/-- The triangle has no defined output: the sample is refused. -/
theorem sample_refused {s : State} {wT : StepWord}
    (h : 0 ≤ stepIndex s.n s.sTempo.toNat s.snap.len ∧ (stepIndex s.n s.sTempo.toNat s.snap.len).toNat < s.snap.len)
    (hT : snapWord s.snap .triangle (stepIndex s.n s.sTempo.toNat s.snap.len) = some wT)
    (hg : triangle s.n (noteIndex .triangle wT) (tickFreq s.sMode (noteIndex .triangle wT)) (triLegacyBit s.sMode) = none) :
    sampleStages s = .refused .legacyTriangleNegativeIndex := by
  obtain ⟨wA, hA⟩ := snapWord_eq_some (ch := .pulseA) h
  obtain ⟨wB, hB⟩ := snapWord_eq_some (ch := .pulseB) h
  obtain ⟨wN, hN⟩ := snapWord_eq_some (ch := .noise) h
  have e : triStage (afterPulses s wA wB wT wN) = .refused .legacyTriangleNegativeIndex := by
    unfold triStage
    have : triangle (afterPulses s wA wB wT wN).n (afterPulses s wA wB wT wN).dp.note.triangle
      (afterPulses s wA wB wT wN).dp.freq.triangle (triLegacyBit (afterPulses s wA wB wT wN).sMode) = none := hg
    rw [this]
  rw [sampleStages_some hA hB hT hN, e, andThen_refused]

/-- Everything TICK can do (R165): answer END while Idle; end the render; deliver a sample; stop. -/
theorem execTick_cases (s : State) :
    (s.run = .idle ∧ execTick s = .next s.respondEnd) ∨
    (s.run = .playing ∧ s.renderOver = true ∧ execTick s = .next ((s.setRun .idle).clearCancel).respondEnd) ∨
    (s.run = .playing ∧ s.renderOver = false ∧
      ((∃ wA wB wT wN g, snapWord s.snap .pulseA (stepIndex s.n s.sTempo.toNat s.snap.len) = some wA ∧
          snapWord s.snap .pulseB (stepIndex s.n s.sTempo.toNat s.snap.len) = some wB ∧
          snapWord s.snap .triangle (stepIndex s.n s.sTempo.toNat s.snap.len) = some wT ∧
          snapWord s.snap .noise (stepIndex s.n s.sTempo.toNat s.snap.len) = some wN ∧
          triangle s.n (noteIndex .triangle wT) (tickFreq s.sMode (noteIndex .triangle wT)) (triLegacyBit s.sMode) = some g ∧
          execTick s = .next (tickResult s (tickDatapath s wA wB wT wN g))) ∨
        (¬ (0 ≤ stepIndex s.n s.sTempo.toNat s.snap.len ∧ (stepIndex s.n s.sTempo.toNat s.snap.len).toNat < s.snap.len) ∧
          execTick s = .fault .noSuchStep) ∨
        (∃ wT, snapWord s.snap .triangle (stepIndex s.n s.sTempo.toNat s.snap.len) = some wT ∧
          triangle s.n (noteIndex .triangle wT) (tickFreq s.sMode (noteIndex .triangle wT)) (triLegacyBit s.sMode) = none ∧
          execTick s = .refused .legacyTriangleNegativeIndex))) := by
  unfold execTick
  cases hr : s.run with
  | idle => exact .inl ⟨rfl, rfl⟩
  | playing =>
    cases ho : s.renderOver with
    | true => exact .inr (.inl ⟨rfl, rfl, rfl⟩)
    | false =>
      refine .inr (.inr ⟨rfl, rfl, ?_⟩)
      by_cases hi : 0 ≤ stepIndex s.n s.sTempo.toNat s.snap.len ∧ (stepIndex s.n s.sTempo.toNat s.snap.len).toNat < s.snap.len
      · obtain ⟨wA, hA⟩ := snapWord_eq_some (ch := .pulseA) hi
        obtain ⟨wB, hB⟩ := snapWord_eq_some (ch := .pulseB) hi
        obtain ⟨wT, hT⟩ := snapWord_eq_some (ch := .triangle) hi
        obtain ⟨wN, hN⟩ := snapWord_eq_some (ch := .noise) hi
        cases hg : triangle s.n (noteIndex .triangle wT) (tickFreq s.sMode (noteIndex .triangle wT)) (triLegacyBit s.sMode) with
        | some g => exact .inl ⟨wA, wB, wT, wN, g, hA, hB, hT, hN, hg, by simpa using sample_next hA hB hT hN hg⟩
        | none => exact .inr (.inr ⟨wT, hT, hg, by simp [sample_refused hi hT hg]⟩)
      · exact .inr (.inl ⟨hi, by simp [sample_fault hi]⟩)

end Sys2Proof.Machine
end

