-- ==== Sys2Proof/Laws/Stages.lean ====
section
/-! SUPPORT. What each stage computes, said once: the step index, the notes, the two frequency strategies, the four generators, the mixer
and its range. Later proofs cite these and do not unfold the stages' functions. -/

namespace Sys2Proof.Machine

/-! ### Rounding and fractions -/

theorem frac_bounds (x : V) : 0 ≤ frac x ∧ frac x < 1 := by
  unfold frac
  have h1 := Rat.floor_le x
  have h2 := Rat.lt_floor (x := x)
  constructor <;> linarith

/-- `round` finds the nearest integer, and a tie goes away from zero (R11). -/
theorem roundV_spec (x : V) : |(roundV x : V) - x| ≤ 1 / 2 ∧ (|(roundV x : V) - x| = 1 / 2 → |x| < |(roundV x : V)|) := by
  unfold roundV
  split
  · rename_i hneg
    have a1 := Rat.floor_le (-x + 1/2)
    have a2 := Rat.lt_floor (x := -x + 1/2)
    generalize (-x + 1/2).floor = k at *
    have : (-1 : V) < k := by linarith
    have k0 : -1 < k := by exact_mod_cast this
    have k0' : (0 : V) ≤ k := by exact_mod_cast (by omega : 0 ≤ k)
    push_cast
    refine ⟨by rw [abs_le]; constructor <;> linarith, fun h => ?_⟩
    rw [abs_neg, abs_of_neg hneg, abs_of_nonneg k0']
    rcases abs_eq (by norm_num : (0:V) ≤ 1/2) |>.1 h with h | h <;> linarith
  · rename_i hneg
    have a1 := Rat.floor_le (x + 1/2)
    have a2 := Rat.lt_floor (x := x + 1/2)
    generalize (x + 1/2).floor = k at *
    have : (-1 : V) < k := by linarith
    have k0 : -1 < k := by exact_mod_cast this
    have k0' : (0 : V) ≤ k := by exact_mod_cast (by omega : 0 ≤ k)
    refine ⟨by rw [abs_le]; constructor <;> linarith, fun h => ?_⟩
    rw [abs_of_nonneg (by linarith : 0 ≤ x), abs_of_nonneg k0']
    rcases abs_eq (by norm_num : (0:V) ≤ 1/2) |>.1 h with h | h <;> linarith

/-! ### Step index and notes -/

/-- With a step in the snapshot the index is the floor, held at the last step (R120). -/
theorem stepIndex_of_pos {n tempo len : Nat} (h : 0 < len) :
    stepIndex n tempo len = ((min (n * tempo / 2880000) (len - 1) : Nat) : Int) := by
  unfold stepIndex clampInt
  rw [if_pos (by omega)]
  split
  · omega
  · split <;> omega

/-- With a step in the snapshot the index names one (R53, R120). -/
theorem stepIndex_in_range {n tempo len : Nat} (h : 0 < len) :
    0 ≤ stepIndex n tempo len ∧ (stepIndex n tempo len).toNat < len := by
  rw [stepIndex_of_pos h]; omega

theorem noteStage_some {s : State} {ch : Channel} {w : StepWord} (h : snapWord s.snap ch s.dp.step = some w) :
    noteStage ch s = .next (s.setDp { s.dp with note := s.dp.note.set ch (noteIndex ch w) }) := by
  simp only [noteStage, h]

theorem noteStage_none {s : State} {ch : Channel} (h : snapWord s.snap ch s.dp.step = none) :
    noteStage ch s = .fault .noSuchStep := by
  simp only [noteStage, h]

theorem snapWord_of_nonneg {m : Memory} {ch : Channel} {i : Int} (h : 0 ≤ i) : snapWord m ch i = m.read ch i.toNat := by
  unfold snapWord; rw [if_pos h]

/-! ### Frequencies -/

theorem freqHw_of_out {note : Int} (h : note < 0 ∨ 80 ≤ note) : freqHw note = 0 := by
  unfold freqHw; rw [if_pos (by simpa [nPeriod] using h)]

/-- The exact quotient for a note of the table (R112). -/
theorem freqHw_of_lt {j : Nat} (h : j < 80) : freqHw (j : Int) = 1789773 / (16 * ((period j : V) + 1)) := by
  unfold freqHw
  have hf : hwFreqFloor = false := rfl
  rw [if_neg (by unfold nPeriod; omega), hf]
  simp [clockRate]

/-- The frequency of FREQ.HW is never negative. -/
theorem freqHw_nonneg (note : Int) : 0 ≤ freqHw note := by
  by_cases h : note < 0 ∨ 80 ≤ note
  · rw [freqHw_of_out h]
  · have e : note = ((note.toNat : Nat) : Int) := by omega
    rw [e, freqHw_of_lt (by omega)]
    positivity

theorem tickFreq_of_note (mode : BitVec 2) {note : Int} (h : note ≠ -1) :
    tickFreq mode note = if mode.getLsbD 0 then freqEt note else freqHw note := by
  unfold tickFreq; rw [if_neg h]; rfl

/-! ### Generators -/

/-- A pulse is 0 exactly in the first half of a period (R123). -/
theorem pulse_eq_zero_iff (n : Nat) (f u : V) (h : u = (n : V) * f / 48000) :
    pulse n f = 0 ↔ ∃ w : Int, (w : V) ≤ u ∧ u < w + 1 / 2 := by
  unfold pulse duty fs frac
  simp only [← h]
  have h1 := Rat.floor_le u
  have h2 := Rat.lt_floor (x := u)
  constructor
  · intro hh
    by_cases hc : u - (u.floor : V) < 1/2
    · exact ⟨u.floor, h1, by linarith⟩
    · rw [if_neg hc] at hh; cases hh
  · rintro ⟨w, hw1, hw2⟩
    have : u.floor = w := by
      have a : (w : V) < u.floor + 1 := by linarith
      have b : (u.floor : V) < w + 1 := by linarith
      have a' : w < u.floor + 1 := by exact_mod_cast a
      have b' : u.floor < w + 1 := by exact_mod_cast b
      omega
    rw [if_pos (by rw [this]; linarith)]

theorem pulseUnit_inactive {n : Nat} {note : Int} {f : V} (h : ¬ (note ≠ -1 ∧ 0 < f)) : pulseUnit n note f = 0 := by
  unfold pulseUnit; rw [if_neg (by rwa [activePitched_eq_true])]

theorem pulseUnit_active {n : Nat} {note : Int} {f : V} (h : note ≠ -1 ∧ 0 < f) : pulseUnit n note f = pulse n f := by
  unfold pulseUnit; rw [if_pos (by rwa [activePitched_eq_true])]

/-- The triangle's index as the rounding of the window's fraction (R126). -/
theorem triIndex_eq (n : Nat) (f : V) : triIndex n f = roundV (30 * frac ((n : V) * f / 48000) - 15) := by
  have e : (n : V) * 30 * (f / triFreqDiv / fs) / 30 = (n : V) * f / 48000 := by unfold triFreqDiv fs; ring
  unfold triIndex modV frac
  simp only
  rw [e]
  congr 1
  unfold triFreqDiv fs
  ring

theorem triIndex_bounds (n : Nat) (f : V) : -15 ≤ triIndex n f ∧ triIndex n f ≤ 15 := by
  rw [triIndex_eq]
  obtain ⟨h1, h2⟩ := frac_bounds ((n : V) * f / 48000)
  generalize frac ((n : V) * f / 48000) = r at *
  obtain ⟨h3, h4⟩ := roundV_spec (30 * r - 15)
  rw [abs_le] at h3
  have a : (-16 : V) < roundV (30 * r - 15) := by linarith
  have b : (roundV (30 * r - 15) : V) < 16 := by linarith
  have a' : -16 < roundV (30 * r - 15) := by exact_mod_cast a
  have b' : roundV (30 * r - 15) < 16 := by exact_mod_cast b
  omega

theorem triangle_inactive {n : Nat} {note : Int} {f : V} (legacy : Bool) (h : ¬ (note ≠ -1 ∧ 0 < f)) :
    triangle n note f legacy = some .silent := by
  unfold triangle; rw [if_neg (by rwa [activePitched_eq_true])]

theorem triangle_folded {n : Nat} {note : Int} {f : V} (h : note ≠ -1 ∧ 0 < f) :
    ∃ e : Fin 16, (e.val : Int) = |triIndex n f| ∧ triangle n note f false = some (.level e) := by
  have hb := triIndex_bounds n f
  refine ⟨Fin.ofNat 16 (triIndex n f).natAbs, ?_, by
    unfold triangle; rw [if_pos (by rwa [activePitched_eq_true])]; rfl⟩
  show (((triIndex n f).natAbs % 16 : Nat) : Int) = _
  rw [Int.abs_eq_natAbs]; omega

theorem triangle_legacy {n : Nat} {note : Int} {f : V} (h : note ≠ -1 ∧ 0 < f) (hk : 0 ≤ triIndex n f) :
    ∃ e : Fin 16, (e.val : Int) = triIndex n f ∧ triangle n note f true = some (.level e) := by
  have hb := triIndex_bounds n f
  refine ⟨Fin.ofNat 16 (triIndex n f).toNat, ?_, by
    unfold triangle; rw [if_pos (by rwa [activePitched_eq_true])]; simp [triLevel, hk]⟩
  show (((triIndex n f).toNat % 16 : Nat) : Int) = _
  omega

/-- The only case without an output (R126). -/
theorem triangle_eq_none_iff {n : Nat} {note : Int} {f : V} {legacy : Bool} :
    triangle n note f legacy = none ↔ legacy = true ∧ (note ≠ -1 ∧ 0 < f) ∧ triIndex n f < 0 := by
  by_cases ha : note ≠ -1 ∧ 0 < f
  · unfold triangle
    rw [if_pos (by rwa [activePitched_eq_true])]
    cases legacy <;> simp [triLevel, ha]
  · simp only [triangle_inactive legacy ha, reduceCtorEq, ha, false_and, and_false]

/-! ### Mixer -/

/-- Every output of a triangle or noise unit. -/
def allOutputs : List GenOut := .silent :: (List.finRange 16).map .level

theorem mem_allOutputs (g : GenOut) : g ∈ allOutputs := by rcases g with _ | k <;> simp [allOutputs]

theorem mixTnd_eq (a b : GenOut) : mixTnd a b = if a.toV / 8227 + b.toV / 12241 = 0 then 0
    else (15979 / 100) / (1 / (a.toV / 8227 + b.toV / 12241) + 100) := by
  have : tndSum a.toV b.toV = a.toV / 8227 + b.toV / 12241 := by unfold tndSum; ring
  unfold mixTnd; simp only [this]

/-- The inner sum is 0 only for two silent units, and neither division of MIX.TND meets 0 (R141). -/
theorem tnd_divisors : ∀ a ∈ allOutputs, ∀ b ∈ allOutputs, ¬ (a = .silent ∧ b = .silent) →
    a.toV / 8227 + b.toV / 12241 ≠ 0 ∧ 1 / (a.toV / 8227 + b.toV / 12241) + 100 ≠ 0 := by decide +kernel

/-- The range of the mixer's output (R142). -/
theorem mixed_range : ∀ a ∈ allOutputs, ∀ b ∈ allOutputs, ∀ p q : Fin 2,
    -81764543 / 2466497675 ≤ mixPulse p q + mixTnd a b ∧ mixPulse p q + mixTnd a b ≤ 799 / 34700 + 81764543 / 2568837675 := by
  decide +kernel

end Sys2Proof.Machine
end

