-- ==== Sys2Proof/Laws/Step.lean ====
section
/-! SUPPORT. What a step can do, said once: the event it takes, and for every command the whole of its effect. Invariants are proved
from these by a case analysis, without unfolding a meaning. -/

namespace Sys2Proof

/-- Only commands have words (R74, R200). -/
theorem decode_isCommand {cw : CmdWord} {i : Instr} (h : decode cw = .ok i) : i.isCommand = true := by
  unfold decode at h
  simp only at h
  split at h <;> simp only [checked_eq_ok_iff, reduceCtorEq] at h <;> obtain ⟨rfl, -⟩ := h <;> rfl

end Sys2Proof

namespace Sys2Proof.Machine

/-- The outcome of a step, by the event it takes (R57, R76, R200). -/
theorem step_cases (s : State) :
    (s.inbox = [] ∧ step s = .next s) ∨
    (∃ rest, s.inbox = .reset :: rest ∧ step s = .next (State.afterReset s.free rest)) ∨
    (∃ cw rest i, s.inbox = .command cw :: rest ∧ decode cw = .ok i ∧ step s = exec i (s.withInbox rest)) ∨
    (∃ cw rest e, s.inbox = .command cw :: rest ∧ decode cw = .error e ∧
      step s = .next ((s.withInbox rest).respond .errIllegal (.word 0#32))) := by
  unfold step
  cases hi : s.inbox with
  | nil => exact .inl ⟨rfl, rfl⟩
  | cons ev rest =>
    cases ev with
    | reset => exact .inr (.inl ⟨rest, rfl, rfl⟩)
    | command cw =>
      cases hd : decode cw with
      | ok i => exact .inr (.inr (.inl ⟨cw, rest, i, rfl, hd, by simp only [hd]⟩))
      | error e => exact .inr (.inr (.inr ⟨cw, rest, e, rfl, hd, by simp only [hd]; rfl⟩))

/-- How a command may leave the live track: as it was, one word replaced, longer, shorter, or new (R20). -/
inductive LiveEdit (m : Memory) : Instr → Memory → Prop where
  | toggle (ch : Channel) (step : BitVec 16) (slot : BitVec 4) (w : StepWord) : m.read ch step.toNat = some w →
      slot.toNat < nslots → LiveEdit m (.select ch step slot) (m.write ch step.toNat (toggleSlot w slot.toNat))
  | store (ch : Channel) (step mask : BitVec 16) : step.toNat < m.len →
      LiveEdit m (.wrStep ch step mask) (m.write ch step.toNat (mask &&& slotMask))
  | grow (cnt : BitVec 16) : m.len + cnt.toNat ≤ lMax → LiveEdit m (.grow cnt) (m.grow cnt.toNat)
  | shrink (cnt : BitVec 16) : cnt.toNat ≤ m.len → LiveEdit m (.shrink cnt) (m.shrink cnt.toNat)
  | new : LiveEdit m .newTrack Memory.empty

/-- Every edit keeps the canonical form. -/
theorem LiveEdit.wf {m m' : Memory} {i : Instr} (e : LiveEdit m i m') (h : m.wf) : m'.wf := by
  cases e with
  | toggle ch step slot w hw hs => exact Memory.write_wf h ch (Memory.read_eq_some_iff.1 hw).1 _
  | store ch step mask hs => exact Memory.write_wf h ch hs _
  | grow cnt hc => exact Memory.grow_wf h hc
  | shrink cnt hc => exact Memory.shrink_wf h _
  | new => exact Memory.empty_wf

/-- Every edit keeps the reserved bits 0 (R70, R100 (c)). -/
theorem LiveEdit.reservedClear {m m' : Memory} {i : Instr} (e : LiveEdit m i m') (h : m.reservedClear) : m'.reservedClear := by
  cases e with
  | toggle ch step slot w hw hs =>
    exact Memory.forall_write (p := fun w => w &&& slotMask = w) h (toggleSlot_and_slotMask w hs)
  | store ch step mask hs => exact Memory.forall_write (p := fun w => w &&& slotMask = w) h (and_slotMask_idem mask)
  | grow cnt hc => exact Memory.forall_grow (p := fun w => w &&& slotMask = w) h
  | shrink cnt hc => exact Memory.forall_shrink (p := fun w => w &&& slotMask = w) h
  | new => exact Memory.forall_empty (p := fun w => w &&& slotMask = w)

/-- Everything a command that goes on can do. -/
theorem exec_command_cases {i : Instr} {s t : State} (hi : i.isCommand = true) (h : exec i s = .next t) :
    (i ≠ .play ∧ i ≠ .tick ∧ ∃ st v, t = s.respond st v) ∨
    (∃ m, LiveEdit s.live i m ∧ t = (s.setLive m).answer 0#32) ∨
    (∃ b, i = .setTempo b ∧ t = ({ s with tempo := b } : State).answer 0#32) ∨
    (∃ v, i = .setVol v ∧ v.toNat ≤ 100 ∧ t = ({ s with volume := v } : State).answer 0#32) ∨
    (∃ m, i = .setMode m ∧ t = ({ s with mode := m } : State).answer 0#32) ∨
    (i = .stop ∧ s.run = .playing ∧ t = s.raiseCancel.answer 0#32) ∨
    (i = .play ∧ t = ((s.endActiveRender.capture.resetRender).setRun .playing).answer 0#32) ∨
    (i = .tick ∧ execTick s = .next t) := by
  cases i <;> simp only [Instr.isCommand, Bool.false_eq_true] at hi
  case select ch step slot =>
    simp only [exec, execSelect, reject] at h
    split at h
    · exact .inl ⟨by simp, by simp, _, _, (Host.Outcome.next.inj h).symm⟩
    · split at h
      · exact .inl ⟨by simp, by simp, _, _, (Host.Outcome.next.inj h).symm⟩
      · exact .inr (.inl ⟨_, .toggle ch step slot _ ‹_› (by omega), (Host.Outcome.next.inj h).symm⟩)
  case wrStep ch step mask =>
    simp only [exec, execWrStep, reject] at h
    split at h
    · exact .inl ⟨by simp, by simp, _, _, (Host.Outcome.next.inj h).symm⟩
    · rename_i hr
      exact .inr (.inl ⟨_, .store ch step mask (Memory.read_eq_some_iff.1 hr).1, (Host.Outcome.next.inj h).symm⟩)
  case grow cnt =>
    simp only [exec, execGrow, reject] at h
    split at h
    · exact .inl ⟨by simp, by simp, _, _, (Host.Outcome.next.inj h).symm⟩
    · exact .inr (.inl ⟨_, .grow cnt (by omega), (Host.Outcome.next.inj h).symm⟩)
  case shrink cnt =>
    simp only [exec, execShrink, reject] at h
    split at h
    · exact .inl ⟨by simp, by simp, _, _, (Host.Outcome.next.inj h).symm⟩
    · exact .inr (.inl ⟨_, .shrink cnt (by omega), (Host.Outcome.next.inj h).symm⟩)
  case newTrack => exact .inr (.inl ⟨_, .new, (Host.Outcome.next.inj h).symm⟩)
  case setTempo b => exact .inr (.inr (.inl ⟨b, rfl, (Host.Outcome.next.inj h).symm⟩))
  case setVol v =>
    simp only [exec, execSetVol, reject] at h
    split at h
    · exact .inl ⟨by simp, by simp, _, _, (Host.Outcome.next.inj h).symm⟩
    · exact .inr (.inr (.inr (.inl ⟨v, rfl, by omega, (Host.Outcome.next.inj h).symm⟩)))
  case setMode m => exact .inr (.inr (.inr (.inr (.inl ⟨m, rfl, (Host.Outcome.next.inj h).symm⟩))))
  case stop =>
    simp only [exec, execStop] at h
    split at h
    · exact .inr (.inr (.inr (.inr (.inr (.inl ⟨rfl, ‹_›, (Host.Outcome.next.inj h).symm⟩)))))
    · exact .inl ⟨by simp, by simp, _, _, (Host.Outcome.next.inj h).symm⟩
  case play => exact .inr (.inr (.inr (.inr (.inr (.inr (.inl ⟨rfl, (Host.Outcome.next.inj h).symm⟩))))))
  case tick => exact .inr (.inr (.inr (.inr (.inr (.inr (.inr ⟨rfl, h⟩))))))
  all_goals
    simp only [exec, execIsSel, execNoteIdx, execGetLen, execRdStep, reject] at h
    (try split at h) <;> (try split at h) <;> exact .inl ⟨by simp, by simp, _, _, (Host.Outcome.next.inj h).symm⟩

/-- Only TICK can stop: the other commands always go on. -/
theorem exec_command_goes_on {i : Instr} (s : State) (hi : i.isCommand = true) (ht : i ≠ .tick) : ∃ t, exec i s = .next t := by
  cases i <;> simp only [Instr.isCommand, Bool.false_eq_true, ne_eq, not_true_eq_false] at hi ht
  all_goals
    simp only [exec, execSelect, execIsSel, execNoteIdx, execGrow, execShrink, execGetLen, execNewTrack, execWrStep, execRdStep,
      execSetTempo, execSetVol, execSetMode, execPlay, execStop, reject]
    (try split) <;> (try split) <;> exact ⟨_, rfl⟩

/-- A render with samples to deliver has a step to play (R167). -/
theorem State.Inv.steps {s : State} (h : s.Inv) (hn : s.n < s.nEnd) : 0 < s.snap.len := by
  have := h.renderLength
  rcases Nat.eq_zero_or_pos s.snap.len with h0 | h0
  · rw [h0, Sys2Proof.Machine.renderLength] at this; simp at this; omega
  · exact h0

/-- A TICK of a render in flight, in a state that meets the invariant: it delivers, or the triangle is undefined (R165, R126). -/
theorem execTick_playing {s : State} (h : s.Inv) (hr : s.run = .playing) (hc : s.cancel = false) (hn : s.n < s.nEnd) :
    ∃ wA wB wT wN, snapWord s.snap .pulseA (stepIndex s.n s.sTempo.toNat s.snap.len) = some wA ∧
      snapWord s.snap .pulseB (stepIndex s.n s.sTempo.toNat s.snap.len) = some wB ∧
      snapWord s.snap .triangle (stepIndex s.n s.sTempo.toNat s.snap.len) = some wT ∧
      snapWord s.snap .noise (stepIndex s.n s.sTempo.toNat s.snap.len) = some wN ∧
      (∀ g, triangle s.n (noteIndex .triangle wT) (tickFreq s.sMode (noteIndex .triangle wT)) (triLegacyBit s.sMode) = some g →
        execTick s = .next (tickResult s (tickDatapath s wA wB wT wN g))) ∧
      (triangle s.n (noteIndex .triangle wT) (tickFreq s.sMode (noteIndex .triangle wT)) (triLegacyBit s.sMode) = none →
        execTick s = .refused .legacyTriangleNegativeIndex) := by
  have hi := stepIndex_in_range (n := s.n) (tempo := s.sTempo.toNat) (h.steps hn)
  have ho : s.renderOver = false := by simp [State.renderOver, hc, hn]
  obtain ⟨wA, hA⟩ := snapWord_eq_some (ch := .pulseA) hi
  obtain ⟨wB, hB⟩ := snapWord_eq_some (ch := .pulseB) hi
  obtain ⟨wT, hT⟩ := snapWord_eq_some (ch := .triangle) hi
  obtain ⟨wN, hN⟩ := snapWord_eq_some (ch := .noise) hi
  refine ⟨wA, wB, wT, wN, hA, hB, hT, hN, fun g hg => ?_, fun hg => ?_⟩
  · simp only [execTick, hr, ho]
    simpa using sample_next hA hB hT hN hg
  · simp only [execTick, hr, ho]
    simp [sample_refused hi hT hg]

end Sys2Proof.Machine
end

