-- ==== Sys2Proof/Tests/Slice0.lean ====
section
/-! SUPPORT. The model's own tests: the well-formedness smoke, decoding word by word, one step per operation, and a witness for every
statement that has hypotheses. Expected values are the vectors of `spec/95_test_vectors.md` (V1 to V116, P1 to P5), the words of R73
written out by hand, and hand calculation from the rules named. -/

open Sys2Proof Sys2Proof.Machine Sys2Proof.Claims

namespace Sys2Proof.Tests

-- One theorem after the other: each `decide` waits for the kernel, and all of them at once would hold one thread each.
set_option Elab.async false

/-! ### Small states -/

/-- A track of `len` steps with the words given (flat address, word). -/
def track (len : Nat) (cells : List StepCell) : Memory where
  len := len
  cells := cells

/-- An idle block with a track of one empty step, tempo 180, volume 100, mode 0. -/
def quiet : State where
  live := track 1 []
  tempo := 180#16
  volume := 100#7
  mode := 0#2
  run := .idle
  cancel := false
  n := 0
  nEnd := 0
  snap := Memory.empty
  sTempo := 0#16
  sVolume := 100#7
  sMode := 0#2
  hpa := ⟨0, 0⟩
  hpb := ⟨0, 0⟩
  lp := ⟨0, 0⟩
  dp := Datapath.cleared
  free := 0
  inbox := []
  resp := none

/-- `quiet` with the word `m` at step 0 of pulse A. -/
def withWord (m : StepWord) : State := { quiet with live := track 1 [(0, m)] }

/-- A render of one step in flight at sample `n`: tempo 1, so 800 samples. -/
def rendering (cells : List StepCell) (mode : BitVec 2) (n : Nat) : State :=
  { quiet with run := .playing, n := n, nEnd := 800, snap := track 1 cells, sTempo := 1#16, sMode := mode }

/-- A state with the values the stages of one sample find. -/
def midSample (n : Nat) (mode : BitVec 2) (d : Datapath) : State := { quiet with n := n, sMode := mode, dp := d }

/-- The response after an operation. -/
def answerOf (o : Host.Outcome State Fault Refusal) : Option Response :=
  match o with
  | .next s => s.resp
  | .fault _ => none
  | .refused _ => none

/-- The state after an operation; `quiet` if it stopped. -/
def after (o : Host.Outcome State Fault Refusal) : State :=
  match o with
  | .next s => s
  | .fault _ => quiet
  | .refused _ => quiet

/-- A state in which every condition of the invariant holds, condition by condition. -/
theorem inv_of (s : State) (h1 : s.live.wf) (h2 : s.snap.wf) (h3 : ∀ c ∈ s.live.cells, c.2 &&& slotMask = c.2)
    (h4 : ∀ c ∈ s.snap.cells, c.2 &&& slotMask = c.2) (h5 : s.volume.toNat ≤ 100 ∧ s.sVolume.toNat ≤ 100)
    (h6 : s.cancel = true → s.run = .playing) (h7 : s.nEnd = 800 * s.snap.len * s.sTempo.toNat) (h8 : s.n ≤ s.nEnd)
    (h9 : s.dp = Datapath.cleared) : s.Inv := ⟨h1, h2, h3, h4, h5.1, h5.2, h6, h7, h8, h9⟩

/-- A word with one slot below 12 is inside the slot mask whatever `NSLOTS` is. -/
theorem oneSlot_in_mask (k : Nat) (hk : k < 12) : oneHot k &&& slotMask = oneHot k :=
  oneHot_and_slotMask (by have := le_nslots; omega)

/-! ### Well-formedness: each check refuses an ill-formed term -/

theorem test_freqHw_noise_ill_formed : (Instr.freqHw .noise).wellFormed = false := by decide

theorem test_freqEt_noise_ill_formed : (Instr.freqEt .noise).wellFormed = false := by decide

theorem test_freqHw_triangle_well_formed : (Instr.freqHw .triangle).wellFormed = true := by decide

/-! ### Decoding: words written out by hand from R71 to R73, `op : 0 : ch : step : arg` -/

/-- op 0x01, ch 2, step 0x0102, slot 0xB -/
theorem test_decode_select : decode 0x010201020000000B#64 = .ok (.select .triangle 0x0102#16 0xB#4) := by decide

/-- op 0x02, ch 1, step 0xFFFF, slot 0xF -/
theorem test_decode_isSel : decode 0x0201FFFF0000000F#64 = .ok (.isSel .pulseB 0xFFFF#16 0xF#4) := by decide

/-- op 0x03, ch 3, step 0 (V116) -/
theorem test_decode_noteIdx : decode 0x0303000000000000#64 = .ok (.noteIdx .noise 0#16) := by decide

/-- op 0x04, cnt 0x8001 -/
theorem test_decode_grow : decode 0x0400000000008001#64 = .ok (.grow 0x8001#16) := by decide

/-- op 0x05, cnt 5 -/
theorem test_decode_shrink : decode 0x0500000000000005#64 = .ok (.shrink 5#16) := by decide

/-- op 0x06 -/
theorem test_decode_getLen : decode 0x0600000000000000#64 = .ok .getLen := by decide

/-- op 0x07 -/
theorem test_decode_newTrack : decode 0x0700000000000000#64 = .ok .newTrack := by decide

/-- op 0x08, ch 3, step 7, mask 0xF011 -/
theorem test_decode_wrStep : decode 0x080300070000F011#64 = .ok (.wrStep .noise 7#16 0xF011#16) := by decide

/-- op 0x09, ch 0, step 0 (P2) -/
theorem test_decode_rdStep : decode 0x0900000000000000#64 = .ok (.rdStep .pulseA 0#16) := by decide

/-- op 0x10, bpm 180 = 0xB4 (P1) -/
theorem test_decode_setTempo : decode 0x10000000000000B4#64 = .ok (.setTempo 180#16) := by decide

/-- op 0x11, vol 101 = 0x65, a legal word (V113) -/
theorem test_decode_setVol : decode 0x1100000000000065#64 = .ok (.setVol 101#7) := by decide

/-- op 0x12, mode 3 -/
theorem test_decode_setMode : decode 0x1200000000000003#64 = .ok (.setMode 3#2) := by decide

/-- op 0x20 -/
theorem test_decode_play : decode 0x2000000000000000#64 = .ok .play := by decide

/-- op 0x21 -/
theorem test_decode_stop : decode 0x2100000000000000#64 = .ok .stop := by decide

/-- op 0x22 -/
theorem test_decode_tick : decode 0x2200000000000000#64 = .ok .tick := by decide

/-- Unassigned codes (V100 to V103). -/
theorem test_illegal_op : decode 0#64 = .error .unassignedOp ∧ decode 0x0A00000000000000#64 = .error .unassignedOp ∧
    decode 0x2300000000000000#64 = .error .unassignedOp ∧ decode 0xFFFFFFFFFFFFFFFF#64 = .error .unassignedOp := by decide

/-- A bit of the zero field (V104). -/
theorem test_illegal_zero_field : decode 0x0104000000000000#64 = .error .zeroField := by decide

/-- Unused operand bits (V105 to V112). -/
theorem test_illegal_operand : decode 0x0100000000000010#64 = .error .unusedArg ∧
    decode 0x0600000000000001#64 = .error .unusedArg ∧ decode 0x0700000100000000#64 = .error .unusedStep ∧
    decode 0x0400000000010000#64 = .error .unusedArg ∧ decode 0x1100000000000080#64 = .error .unusedArg ∧
    decode 0x1200000000000004#64 = .error .unusedArg ∧ decode 0x2200000100000000#64 = .error .unusedStep ∧
    decode 0x2001000000000000#64 = .error .unusedChannel := by decide

/-- An illegal word answers ERR_ILLEGAL and changes nothing (P5, line 6). -/
theorem test_illegal_word_step : step { quiet with inbox := [.command 0x2200000000000001#64] } =
    .next { quiet with resp := some ⟨.errIllegal, .word 0#32⟩ } := rfl

/-- A command placed by `withFetchWord` runs as the first operation after reset: GETLEN answers 0 (R96, R200). -/
theorem test_first_command_after_reset :
    answerOf (step (State.reset.withFetchWord 64 0x0600000000000000)) = some ⟨.ok, .word 0#32⟩ := by decide +kernel

/-! ### Step model -/

/-- V1: from an empty word, SELECT 5 sets exactly bit 5; from `0x0020` it clears. -/
theorem test_select_toggles : (after (exec (.select .pulseA 0#16 5#4) quiet)).live = track 1 [(0, 0x0020#16)] ∧
    (after (exec (.select .pulseA 0#16 5#4) (withWord 0x0020#16))).live = track 1 [] := by decide +kernel

/-- V4, V5: a word with bits 4 and 5: SELECT 4 clears everything, SELECT 0 leaves bit 0. -/
theorem test_select_two_bits : (after (exec (.select .pulseA 0#16 4#4) (withWord 0x0030#16))).live = track 1 [] ∧
    (after (exec (.select .pulseA 0#16 0#4) (withWord 0x0030#16))).live = track 1 [(0, 1#16)] := by decide +kernel

/-- V7, V7b: equality, not a bit test. -/
theorem test_isSel : answerOf (exec (.isSel .pulseA 0#16 5#4) (withWord 0x0020#16)) = some ⟨.ok, .word 1#32⟩ ∧
    answerOf (exec (.isSel .pulseA 0#16 4#4) (withWord 0x0020#16)) = some ⟨.ok, .word 0#32⟩ ∧
    answerOf (exec (.isSel .pulseA 0#16 4#4) (withWord 0x0030#16)) = some ⟨.ok, .word 0#32⟩ := by decide +kernel

/-- V8, V12, V116: no note, and a step that does not exist. -/
theorem test_noteIdx : answerOf (exec (.noteIdx .pulseA 0#16) quiet) = some ⟨.ok, .word 0xFFFFFFFF#32⟩ ∧
    answerOf (exec (.noteIdx .pulseA 1#16) quiet) = some ⟨.errRange, .word 0#32⟩ := by decide +kernel

/-- V10: the lowest set bit of `0x0030` is 4. -/
theorem test_ctz : ctz 0x0030#16 = 4 ∧ ctz 0x0800#16 = 11 ∧ ctz 0x8000#16 = 15 := by decide

/-- V16: `LEN = 65530`: GROW 6 fails, GROW 5 succeeds. -/
theorem test_grow_limit :
    answerOf (exec (.grow 6#16) { quiet with live := track 65530 [] }) = some ⟨.errRange, .word 0#32⟩ ∧
    (after (exec (.grow 5#16) { quiet with live := track 65530 [] })).live.len = 65535 := by decide +kernel

/-- V14, V15: `LEN = 4`: SHRINK 5 fails, SHRINK 4 empties the track. -/
theorem test_shrink_limit :
    answerOf (exec (.shrink 5#16) { quiet with live := track 4 [] }) = some ⟨.errShrink, .word 0#32⟩ ∧
    (after (exec (.shrink 4#16) { quiet with live := track 4 [(3, 2#16)] })).live = track 0 [] := by decide +kernel

/-- V17: the word of a removed step is gone: step 3 of pulse A goes, step 2 of pulse B stays. -/
theorem test_shrink_drops_words :
    (after (exec (.shrink 1#16) { quiet with live := track 4 [(3, 2#16), (65538, 4#16)] })).live = track 3 [(65538, 4#16)] := by
  decide +kernel

/-- V13: the length is answered. -/
theorem test_getLen : answerOf (exec .getLen { quiet with live := track 4 [] }) = some ⟨.ok, .word 4#32⟩ := by decide +kernel

/-- V19: the track goes, the tempo stays. -/
theorem test_newTrack : (after (exec .newTrack (withWord 0x0020#16))).live = track 0 [] ∧
    (after (exec .newTrack (withWord 0x0020#16))).tempo = 180#16 := by decide +kernel

/-- V18: the low 12 bits are slots whatever `NSLOTS` is; a word goes to its own channel's address. -/
theorem test_wrStep : ((after (exec (.wrStep .noise 0#16 0xFFFF#16) quiet)).live.read .noise 0).map (fun w => w &&& 0x0FFF#16) =
    some 0x0FFF#16 ∧ (after (exec (.wrStep .noise 0#16 0xFFFF#16) quiet)).live.read .pulseA 0 = some 0#16 := by
  have h : ∀ k : Fin 5, ((0xFFFF#16 &&& BitVec.ofNat 16 (2 ^ (k.val + 12) - 1)) &&& 0x0FFF#16) = 0x0FFF#16 := by decide
  have hm : (0xFFFF#16 &&& slotMask) &&& 0x0FFF#16 = 0x0FFF#16 := h Config.nslotsAbove12
  have hw : quiet.live.wf := by decide
  have e : (after (exec (.wrStep .noise 0#16 0xFFFF#16) quiet)).live = quiet.live.write .noise 0 (0xFFFF#16 &&& slotMask) := rfl
  rw [e, Memory.read_write_same hw (by decide), Memory.read_write_other hw (by decide) _ (by decide)]
  exact ⟨by simp [hm], rfl⟩

/-- The word is answered zero-extended (R99); a step beyond the track is refused. -/
theorem test_rdStep : answerOf (exec (.rdStep .pulseA 0#16) (withWord 0x8020#16)) = some ⟨.ok, .word 0x00008020#32⟩ ∧
    answerOf (exec (.rdStep .pulseA 1#16) quiet) = some ⟨.errRange, .word 0#32⟩ := by decide +kernel

/-! ### Configuration and playback -/

theorem test_setTempo : (after (exec (.setTempo 0#16) quiet)).tempo = 0#16 := by decide

/-- V80, V81: 101 fails and changes nothing, 0 is written. -/
theorem test_setVol : answerOf (exec (.setVol 101#7) quiet) = some ⟨.errRange, .word 0#32⟩ ∧
    (after (exec (.setVol 101#7) quiet)).volume = 100#7 ∧ (after (exec (.setVol 0#7) quiet)).volume = 0#7 := by decide +kernel

theorem test_setMode : (after (exec (.setMode 3#2) quiet)).mode = 3#2 := by decide

/-- V82: `LEN = 1`, tempo 180: Playing, `n = 0`, `N_END = 144000`. -/
theorem test_play_idle : (after (exec .play quiet)).run = .playing ∧ (after (exec .play quiet)).nEnd = 144000 ∧
    (after (exec .play quiet)).cancel = false ∧ (after (exec .play quiet)).sTempo = 180#16 := by decide +kernel

/-- V83, V86: PLAY over a render that has its flag raised: one new render, `n = 0`, the flag clear. -/
theorem test_play_over_render : (after (exec .play { rendering [] 0#2 700 with cancel := true })).run = .playing ∧
    (after (exec .play { rendering [] 0#2 700 with cancel := true })).cancel = false ∧
    (after (exec .play { rendering [] 0#2 700 with cancel := true })).n = 0 := by decide +kernel

/-- V84, V85: STOP raises the flag of a render and does nothing while Idle. -/
theorem test_stop : (after (exec .stop (rendering [] 0#2 500))).cancel = true ∧
    (after (exec .stop (rendering [] 0#2 500))).run = .playing ∧ (after (exec .stop quiet)).cancel = false := by decide +kernel

/-- V84: the first TICK after STOP ends the render, `n` stays. -/
theorem test_tick_after_stop : exec .tick { rendering [] 0#2 500 with cancel := true } =
    .next { rendering [] 0#2 500 with run := .idle, resp := some ⟨.endOfRender, .sample 0⟩ } := rfl

/-- V73: a render of an empty step delivers exactly 0 and counts on. -/
theorem test_tick_silence : answerOf (exec .tick (rendering [] 0#2 500)) = some ⟨.ok, .sample 0⟩ ∧
    (after (exec .tick (rendering [] 0#2 500))).n = 501 := by decide +kernel

/-- R200: RESET while Playing leaves the block Idle with an empty track. -/
theorem test_reset : (after (exec .reset (rendering [(0, 1#16)] 0#2 500))).run = .idle ∧
    (after (exec .reset (rendering [(0, 1#16)] 0#2 500))).snap = track 0 [] ∧
    (after (exec .reset (rendering [(0, 1#16)] 0#2 500))).n = 0 := by decide +kernel

/-! ### Stages -/

/-- V30 to V37, the step index at the sample given. -/
theorem test_stepIdx : stepIndex 15999 180 2 = 0 ∧ stepIndex 16000 180 2 = 1 ∧ stepIndex 40000 180 2 = 1 ∧
    stepIndex 411428 7 1000 = 0 ∧ stepIndex 411429 7 1000 = 1 ∧ stepIndex 43 65535 3 = 0 ∧ stepIndex 44 65535 3 = 1 := by decide

/-- V30, V31, V38: the lengths of renders (R167). -/
theorem test_renderLength : renderLength 2 180 = 288000 ∧ renderLength 1000 7 = 5600000 ∧ renderLength 2 30 = 48000 := by decide

/-- A zero word has no note (V8). -/
theorem test_note_none : (after (exec (.note .noise) (rendering [] 0#2 0))).dp.note = ⟨-1, -1, -1, -1⟩ := by decide +kernel

/-- V20 to V24. -/
theorem test_freqHw : freqHw (-1) = 0 ∧ freqHw 80 = 0 ∧ freqHw 0 = 596591 / 10848 ∧ freqHw 1000 = 0 ∧
    freqHw (-2147483648) = 0 := by decide +kernel

/-- V25 to V27. -/
theorem test_freqEt : freqEt 69 = 440 ∧ freqEt 81 = 880 ∧ freqEt 57 = 220 ∧ freqEt 21 = 55 / 2 ∧ freqEt (-3) = 55 / 8 := by
  decide +kernel

/-- V41 to V47, at 440 Hz. -/
theorem test_pulse : [0, 54, 55, 109, 110, 600, 1200].map (fun n => pulse n 440) = [0, 0, 1, 1, 0, 1, 0] := by decide +kernel

/-- Rule R124 at FREQ.HW note 0: 0 up to 436, 1 from 437 to 872, 0 at 873, 1 at 1310, 0 at 1746. -/
theorem test_pulse_hw : [436, 437, 872, 873, 1309, 1310, 1745, 1746].map (fun n => pulse n (596591 / 10848)) =
    [0, 1, 1, 0, 0, 1, 1, 0] := by decide +kernel

/-- Each unit reads its own channel. -/
theorem test_pulse_units : (after (exec .pulseA (midSample 55 0#2 { Datapath.cleared with
      note := ⟨69, -1, -1, -1⟩, freq := ⟨440, 0, 0, 0⟩ }))).dp.p1 = 1 ∧
    (after (exec .pulseB (midSample 55 0#2 { Datapath.cleared with
      note := ⟨-1, 69, -1, -1⟩, freq := ⟨0, 440, 0, 0⟩ }))).dp.p2 = 1 ∧
    (after (exec .pulseB (midSample 55 0#2 { Datapath.cleared with
      note := ⟨69, -1, -1, -1⟩, freq := ⟨440, 440, 0, 0⟩ }))).dp.p2 = 0 := by decide +kernel

/-- V48a to V48j. -/
theorem test_triIndex : [0, 1, 2, 20, 54, 55, 60, 100, 109, 110].map (fun n => triIndex n 440) =
    [-15, -15, -14, -10, 0, 0, 2, 13, 15, -15] := by decide +kernel

/-- V48d folded: `k = -10` reads `LEVEL[10] = 1/3`; V48h in legacy mode: `k = 13` reads `11/15`. -/
theorem test_tri : (after (exec .tri (midSample 20 0#2 { Datapath.cleared with
      note := ⟨-1, -1, 69, -1⟩, freq := ⟨0, 0, 440, 0⟩ }))).dp.t.toV = 1 / 3 ∧
    (after (exec .tri (midSample 100 2#2 { Datapath.cleared with
      note := ⟨-1, -1, 69, -1⟩, freq := ⟨0, 0, 440, 0⟩ }))).dp.t.toV = 11 / 15 := by decide +kernel

/-- V48a in legacy mode is refused. -/
theorem test_tri_legacy_refused : exec .tri (midSample 0 2#2 { Datapath.cleared with
    note := ⟨-1, -1, 69, -1⟩, freq := ⟨0, 0, 440, 0⟩ }) = .refused .legacyTriangleNegativeIndex := by
  have h : triangle 0 69 440 (triLegacyBit 2#2) = none := by decide +kernel
  simp only [exec, execTri, triStage, midSample, h]

/-- R11's examples of rounding. -/
theorem test_round : [-29 / 2, -1 / 2, 1 / 2, 29 / 2, -149 / 10, 3 / 2, -3 / 2, 0].map roundV = [-15, -1, 1, 15, -15, 2, -2, 0] := by
  decide +kernel

/-- V49: silence makes no draw; an active sample uses one. -/
theorem test_noise : (after (exec .noise quiet)).free = 0 ∧ (after (exec .noise quiet)).dp.nz = .silent ∧
    (after (exec .noise (midSample 0 0#2 { Datapath.cleared with note := ⟨-1, -1, -1, 5⟩ }))).free = 1 := by decide +kernel

/-- V40, V49: the table. -/
theorem test_level : level 0 = -1 ∧ level 7 = -1 / 15 ∧ level 8 = 1 / 15 ∧ level 10 = 1 / 3 ∧ level 15 = 1 := by decide +kernel

/-- V50 to V52. -/
theorem test_mixPulse : mixPulse 0 0 = 0 ∧ mixPulse 1 0 = 141 / 12100 ∧ mixPulse 0 1 = 141 / 12100 ∧
    mixPulse 1 1 = 799 / 34700 := by decide +kernel

/-- V54 to V60: the triangle is the first input, the noise the second. -/
theorem test_mixTnd : mixTnd .silent .silent = 0 ∧ mixTnd (.level 15) .silent = 15979 / 832700 ∧
    mixTnd (.level 0) .silent = -15979 / 812700 ∧ mixTnd .silent (.level 15) = 15979 / 1234100 ∧
    mixTnd (.level 0) (.level 0) = -81764543 / 2466497675 ∧ mixTnd (.level 8) (.level 7) = 10689951 / 25183366750 := by
  decide +kernel

/-- V62: both pulses, `t = 13/15`, `nz = -7/15`. -/
theorem test_mixSum : (after (runAll [.mixPulse, .mixTnd, .mixSum] (midSample 0 0#2 { Datapath.cleared with
    p1 := 1, p2 := 1, t := .level 14, nz := .level 4 }))).dp.mixed = 592705195289 / 17590066224500 := by decide +kernel

/-- The filter chain on a state with registers as after sample 0 of V71. -/
def afterSampleZero : State :=
  { midSample 1 0#2 { Datapath.cleared with mixed := 1 } with hpa := ⟨1, 1⟩, hpb := ⟨1, 1⟩, lp := ⟨1, 815686 / 1000000⟩ }

/-- V71, V74: sample 1 of a step input, outputs and all six registers. -/
theorem test_filters : (after (runAll [.hpfA, .hpfB, .lpf] afterSampleZero)).hpa = ⟨1, 996039 / 1000000⟩ ∧
    (after (runAll [.hpfA, .hpfB, .lpf] afterSampleZero)).hpb = ⟨996039 / 1000000, 995874 / 1000000⟩ ∧
    (after (runAll [.hpfA, .hpfB, .lpf] afterSampleZero)).lp = ⟨995874 / 1000000, 146976828968 / 1000000000000⟩ := by
  decide +kernel

/-- V70: sample 1 of an impulse: `y3 = -0.668709171032`. -/
theorem test_lpf_impulse : (after (runAll [.hpfA, .hpfB, .lpf] { afterSampleZero with dp := Datapath.cleared })).dp.y3 =
    -668709171032 / 1000000000000 := by decide +kernel

/-- V89, V90. -/
theorem test_gain : gain (815686 / 1000000) 50#7 = 407843 / 1000000 ∧ gain 1 0#7 = 0 ∧ gain (1 / 2) 100#7 = 1 / 2 := by
  decide +kernel

/-! ### Pseudo-operations (R82) -/

theorem test_resize : Pseudo.expand 4 (.resize 6#16) = [.grow 2#16] ∧ Pseudo.expand 4 (.resize 1#16) = [.shrink 3#16] ∧
    Pseudo.expand 4 (.resize 4#16) = [] ∧ Pseudo.expand 4 (.ticks 2) = [.tick, .tick] := by decide

/-! ### Witnesses: the hypotheses of the statements can be met -/

/-- DecodeOfEncodeIsIdentity, EncodeOfDecodeIsIdentity, DecodeFollowsMatchAndMask: a word, its instruction and its row. -/
theorem witness_encoding : encode (.wrStep .noise 7#16 0xF011#16) = some 0x080300070000F011#64 ∧
    decode 0x080300070000F011#64 = .ok (.wrStep .noise 7#16 0xF011#16) ∧
    Instr.matchMask (.wrStep .noise 7#16 0xF011#16) = some (0x0800000000000000#64, 0xFFFC0000FFFF0000#64) ∧
    0x080300070000F011#64 &&& 0xFFFC0000FFFF0000#64 = 0x0800000000000000#64 := by decide

/-- IllegalWordChangesNothing: a word that matches no row. -/
theorem witness_IllegalWordChangesNothing : ∀ (i : Instr) m k, i.matchMask = some (m, k) → 0xFFFFFFFFFFFFFFFF#64 &&& k ≠ m := by
  intro i m k h
  cases i <;> simp only [Instr.matchMask, Option.some.injEq, Prod.mk.injEq, reduceCtorEq] at h <;> obtain ⟨rfl, rfl⟩ := h <;> decide

/-- StepRunsTheNextOperation: a command waiting, RESET waiting, nothing waiting, a table word that decodes. -/
theorem witness_StepRunsTheNextOperation :
    ({ quiet with inbox := [.command 0x0600000000000000#64] } : State).inbox = .command 0x0600000000000000#64 :: [] ∧
    decode 0x0600000000000000#64 = .ok .getLen ∧ ({ quiet with inbox := [.reset] } : State).inbox = .reset :: [] ∧
    quiet.inbox = [] ∧ decodeTableWord 64 0x0600000000000000 = some .getLen := by decide

/-- The hypothesis on the live track that the statements about SELECT, GROW, SHRINK, GETLEN, WRSTEP and RESIZE share. -/
theorem witness_live_wf : (withWord 0x0020#16).live.wf ∧ (track 65535 [(3, 2#16), (262142, 4#16)]).wf := by decide +kernel

/-- Slots 0 and 11 exist whatever `NSLOTS` is, and with `NSLOTS` below 16 slot 15 does not. -/
theorem witness_slots : 0 < nslots ∧ 11 < nslots ∧ (nslots ≤ 15 ∨ nslots = 16) := by
  have := nslots_le; have := le_nslots; omega

/-- SelectTogglesExclusively, both clauses: the last step of the longest track, and the step after it. -/
theorem witness_SelectTogglesExclusively : (0xFFFE#16).toNat < (track 65535 []).len ∧ (11#4).toNat < nslots ∧
    (track 65535 []).len ≤ (0xFFFF#16).toNat :=
  ⟨by decide +kernel, witness_slots.2.1, by decide +kernel⟩

/-- SelectTwiceAndSelectOther, all clauses: words 0, `1 << 0`, and one with bit 0 clear. -/
theorem witness_SelectTwiceAndSelectOther : quiet.live.wf ∧ quiet.live.read .pulseA 0 = some 0#16 ∧
    (withWord 1#16).live.wf ∧ (withWord 1#16).live.read .pulseA 0 = some (1#16 <<< (0#4).toNat) ∧
    (withWord 4#16).live.read .pulseA 0 = some 4#16 ∧ (4#16).getLsbD (0#4).toNat = false ∧ (0#4 : BitVec 4) ≠ 11#4 := by
  decide +kernel

/-- IsSelTestsEquality: a word with two bits set. -/
theorem witness_IsSelTestsEquality : (withWord 0x0030#16).live.read .pulseA 0 = some 0x0030#16 ∧
    (0x0030#16).getLsbD 4 = true ∧ (0x0030#16).getLsbD 5 = true ∧ (withWord 0x0030#16).live.len ≤ (1#16).toNat := by decide +kernel

/-- NoteIdxAnswersLowestSlot and RdStepAnswersWord: a step that exists, the first that does not, and a lowest set bit. -/
theorem witness_NoteIdxAnswersLowestSlot : (0#16).toNat < (withWord 0x0030#16).live.len ∧
    (withWord 0x0030#16).live.len ≤ (1#16).toNat ∧ lowestSet 0x0030#16 4 :=
  ⟨by decide, by decide, by decide, by decide⟩

/-- GrowAppendsEmptySteps: up to `LMAX` and one past it. -/
theorem witness_GrowAppendsEmptySteps : (track 65530 []).wf ∧ (track 65530 []).len + (5#16).toNat ≤ 65535 ∧
    65535 < (track 65530 []).len + (6#16).toNat := by decide +kernel

/-- ShrinkRemovesLastSteps: to exactly 0, one below, and a step that is removed. -/
theorem witness_ShrinkRemovesLastSteps : (track 4 []).wf ∧ (4#16).toNat ≤ (track 4 []).len ∧ (track 4 []).len < (5#16).toNat ∧
    (track 4 []).len - (1#16).toNat ≤ 3 ∧ 3 < (track 4 []).len := by decide +kernel

/-- WrStepStoresSlotBits: the last step and the one after it. -/
theorem witness_WrStepStoresSlotBits : (track 4 []).wf ∧ (3#16).toNat < (track 4 []).len ∧ (track 4 []).len ≤ (4#16).toNat := by
  decide +kernel

/-- ErrorStatusesExactlyWhen and StateWrittenOnlyByItsRow: a command that goes on. -/
theorem witness_ErrorStatusesExactlyWhen : (Instr.setVol 101#7).isCommand = true ∧
    exec (.setVol 101#7) quiet = .next { quiet with resp := errorResp .errRange } := ⟨rfl, rfl⟩

/-- FailedOperationChangesNothing: a command that answers an error. -/
theorem witness_FailedOperationChangesNothing : (Instr.shrink 2#16).isCommand = true ∧
    exec (.shrink 2#16) quiet = .next { quiet with resp := errorResp .errShrink } ∧
    Status.errShrink ∈ [Status.errShrink, .errRange, .errIllegal] := ⟨rfl, rfl, by decide⟩

/-- ConfigurationWritesItsRegister: both sides of the volume's bound. -/
theorem witness_ConfigurationWritesItsRegister : (100#7).toNat ≤ 100 ∧ 100 < (101#7).toNat := by decide

/-- PlayStartsRenderOfLiveState, StopRaisesCancel, TickWithoutSampleAnswersEnd, StopThenTickEndsRender: Idle, Playing, a stopped render,
one at its end. -/
theorem witness_runs : quiet.run = .idle ∧ (quiet.cancel = true → quiet.run = .playing) ∧ (rendering [] 0#2 5).run = .playing ∧
    ({ rendering [] 0#2 5 with cancel := true } : State).cancel = true ∧ (rendering [] 0#2 800).nEnd ≤ (rendering [] 0#2 800).n := by
  decide

/-- A render with a triangle note at step 0, in the mode given, meets the invariant at every sample. -/
theorem rendering_inv (mode : BitVec 2) (n : Nat) (hn : n ≤ 800) : (rendering [(131072, 1#16)] mode n).Inv :=
  inv_of _ (show (track 1 []).wf by decide) (show (track 1 [(131072, 1#16)]).wf by decide) (by simp [rendering, quiet, track])
    (by
      intro c hc
      have : c = (131072, 1#16) := by simpa [rendering, track] using hc
      subst this
      exact oneSlot_in_mask 0 (by decide))
    ⟨show (100#7).toNat ≤ 100 by decide, show (100#7).toNat ≤ 100 by decide⟩ (fun h => by cases h)
    (show 800 = 800 * 1 * (1#16).toNat by decide) hn rfl

/-- TickDeliversOneSample, TickRunsStagesInOrder: a render in flight, first and last sample. -/
theorem witness_TickDeliversOneSample : (rendering [(131072, 1#16)] 1#2 0).Inv ∧ (rendering [(131072, 1#16)] 1#2 799).Inv ∧
    (rendering [(131072, 1#16)] 1#2 799).run = .playing ∧ (rendering [(131072, 1#16)] 1#2 799).cancel = false ∧
    (rendering [(131072, 1#16)] 1#2 799).n < (rendering [(131072, 1#16)] 1#2 799).nEnd :=
  ⟨rendering_inv _ _ (by decide), rendering_inv _ _ (by decide), rfl, rfl, by decide⟩

/-- TickCompletesWithoutLegacyTriangle: the folded mode, and the legacy mode without a note. -/
theorem witness_TickCompletesWithoutLegacyTriangle : (rendering [(131072, 1#16)] 1#2 799).Inv ∧
    (rendering [(131072, 1#16)] 1#2 799).sMode.getLsbD 1 = false ∧ (rendering [] 3#2 0).sMode.getLsbD 1 = true ∧
    (rendering [] 3#2 0).snap.read .triangle (min (0 * 1 / 2880000) (1 - 1)) = some 0#16 :=
  ⟨rendering_inv _ _ (by decide), by decide, by decide, by decide⟩

/-- LegacyTriangleRefusedAtFirstSample, and the refused clause of TickDeliversOneSample: mode 3, an active triangle, `n = 0`. -/
theorem witness_LegacyTriangleRefusedAtFirstSample : (rendering [(131072, 1#16)] 3#2 0).Inv ∧
    (rendering [(131072, 1#16)] 3#2 0).run = .playing ∧ (rendering [(131072, 1#16)] 3#2 0).n = 0 ∧
    (rendering [(131072, 1#16)] 3#2 0).sMode.getLsbD 1 = true ∧ (rendering [(131072, 1#16)] 3#2 0).sMode.getLsbD 0 = true ∧
    (rendering [(131072, 1#16)] 3#2 0).snap.read .triangle 0 = some 1#16 :=
  ⟨rendering_inv _ _ (by decide), rfl, rfl, by decide, by decide, by decide⟩

/-- RenderDeliversExactlyItsLength, StopThenPlayIsPlay: an idle block with one step, tempo 180, folded triangle. -/
theorem quiet_inv : quiet.Inv :=
  inv_of _ (by decide) (by decide) (by simp [quiet, track]) (by simp [quiet, Memory.empty]) (by decide) (by decide) (by decide)
    (by decide) rfl

theorem witness_RenderDeliversExactlyItsLength : quiet.Inv ∧ quiet.mode.getLsbD 1 = false ∧
    0 < 800 * quiet.live.len * quiet.tempo.toNat := ⟨quiet_inv, by decide, by decide⟩

/-- ResizeReachesLength: longer, shorter and the same. -/
theorem witness_ResizeReachesLength : (track 4 []).wf ∧ (track 4 []).len < (5#16).toNat ∧ (3#16).toNat < (track 4 []).len := by
  decide +kernel

/-- StepIdxIsClampedFloor, StepIndexRisesByAtMostOne: a snapshot with a step. -/
theorem witness_StepIdxIsClampedFloor : 0 < (rendering [] 0#2 0).snap.len := by decide

/-- NoteDecodesSnapshotWord: an index that names a word, one past the end, one below. -/
theorem witness_NoteDecodesSnapshotWord : (0 ≤ (rendering [] 0#2 0).dp.step ∧
      (rendering [] 0#2 0).dp.step.toNat < (rendering [] 0#2 0).snap.len) ∧
    ¬ ((0 : Int) ≤ 1 ∧ (1 : Int).toNat < (rendering [] 0#2 0).snap.len) ∧ ¬ (0 : Int) ≤ -1 := by decide

/-- FreqHwDividesClock, FreqEtIsEqualTempered: notes on both sides of the table's ends, and note 69. -/
theorem witness_FreqHwDividesClock : (-1 : Int) < 0 ∧ (80 : Int) ≤ 80 ∧ (79 : Nat) < 80 ∧
    (midSample 0 0#2 { Datapath.cleared with note := ⟨69, 79, 0, -1⟩ }).dp.note.get .pulseB = ((79 : Nat) : Int) ∧
    (midSample 0 0#2 { Datapath.cleared with note := ⟨69, 79, 0, -1⟩ }).dp.note.get .triangle = 0 ∧
    (midSample 0 0#2 { Datapath.cleared with note := ⟨69, 79, 0, -1⟩ }).dp.note.get .pulseA = 69 := by decide

/-- EtFreqObeysItsLaws: law (e) has a real number to speak of. -/
theorem witness_EtFreqObeysItsLaws : (68 : Int) < 69 ∧ (0 : ℝ) < 440 ∧ (440 : ℝ) ^ 12 = 440 ^ 12 * 2 ^ ((69 : Int) - 69) := by norm_num

/-- PulseUnitsAreHalfDutySquares, TriReadsLevelTable: a state with three active pitched channels, one with none, and one with a
frequency of 0; and the triangle's index on both sides of 0 and at it. -/
theorem witness_generators :
    ((69 : Int) ≠ -1 ∧ (0 : V) < 440) ∧ (0 : V) ≤ 0 ∧ triIndex 0 440 = -15 ∧ triIndex 54 440 = 0 ∧ triIndex 109 440 = 15 ∧
      (1#2).getLsbD 1 = false ∧ (2#2).getLsbD 1 = true := by
  decide +kernel

/-- NoiseDrawsOncePerActiveSample, MixPulseSaturates, MixTndSaturates, MixSumAddsWithinRange: each clause's values. -/
theorem witness_mixer : (Datapath.cleared.p1 = 0 ∧ Datapath.cleared.p2 = 0) ∧ (Datapath.cleared.note.noise = -1) ∧ ((0 : Fin 2) ≠ 1) ∧ ¬ ((GenOut.level 0) = .silent ∧ GenOut.silent = .silent) ∧
    (Datapath.cleared.t = .silent ∧ Datapath.cleared.nz = .silent) := by decide

/-- StepKeepsInvariant, RunChangesOnlyByTable: a step from a state with the invariant, by PLAY. -/
theorem witness_StepKeepsInvariant : ({ quiet with inbox := [.command 0x2000000000000000#64] } : State).Inv ∧
    step { quiet with inbox := [.command 0x2000000000000000#64] } = exec .play quiet ∧
    (after (exec .play quiet)).run = .playing :=
  ⟨inv_of _ (by decide) (by decide) (by simp [quiet, track]) (by simp [quiet, Memory.empty]) (by decide) (by decide) (by decide)
    (by decide) rfl, rfl, by decide⟩

/-- RunChangesOnlyByTable, the way back: a TICK that finds the render at its end. -/
theorem witness_RunChangesOnlyByTable : (rendering [(131072, 1#16)] 1#2 800).Inv ∧
    (after (exec .tick (rendering [(131072, 1#16)] 1#2 800))).run = .idle := ⟨rendering_inv _ _ (by decide), rfl⟩

/-- StepStopsOnlyInLegacyTriangle: a step that is refused does exist. -/
theorem witness_StepStopsOnlyInLegacyTriangle : (rendering [(131072, 1#16)] 3#2 0).Inv ∧
    exec .tick (rendering [(131072, 1#16)] 3#2 0) = .refused .legacyTriangleNegativeIndex := by
  refine ⟨rendering_inv _ _ (by decide), ?_⟩
  obtain ⟨_, _, wT, _, _, _, hT, _, _, hno⟩ :=
    execTick_playing (rendering_inv 3#2 0 (by decide)) rfl rfl (show 0 < 800 by decide)
  refine hno ?_
  have e : snapWord (track 1 [(131072, 1#16)]) .triangle (stepIndex 0 (1#16).toNat 1) = some wT := hT
  rw [show stepIndex 0 (1#16).toNat 1 = 0 by decide,
    show snapWord (track 1 [(131072, 1#16)]) .triangle 0 = some 1#16 by decide] at e
  obtain rfl := Option.some.inj e
  have hne : noteIndex .triangle 1#16 ≠ -1 := by
    rw [Ne, noteIndex_eq_neg_one_iff]; decide
  refine triangle_eq_none_iff.2 ⟨by decide, ⟨hne, ?_⟩, ?_⟩
  · rw [tickFreq_of_note _ hne]; exact etFreq_pos _
  · show triIndex 0 _ < 0
    rw [triIndex_eq]; simp [frac]; decide +kernel

/-- ExclusivityKeptWithoutWrStep: a track with a word in it, and a next event that is no WRSTEP. -/
theorem witness_ExclusivityKeptWithoutWrStep : (withWord 0x0020#16).live.exclusive ∧ ¬ (withWord 0x0020#16).nextIsWrStep :=
  ⟨by decide +kernel, fun ⟨_, _, _, _, _, h, _⟩ => by cases h⟩

/-- StepKeepsFilterBounds, SamplesStayWithinUnitRange: a render in flight whose registers are at the bounds of the first stage. -/
theorem witness_StepKeepsFilterBounds :
    ({ rendering [] 0#2 5 with hpa := ⟨549 / 10000, 549 / 10000⟩, hpb := ⟨549 / 10000, 549 / 10000⟩, lp := ⟨549 / 10000, 78 / 100⟩ } :
      State).FiltersBounded := by
  constructor <;> simp only <;> norm_num

/-- EditsDuringRenderAreNotHeard, SamplesStayWithinUnitRange: an edit, and a TICK that delivers. -/
theorem witness_EditsDuringRenderAreNotHeard : editsLive (.setVol 0#7) = true ∧ (rendering [] 0#2 500).sVolume.toNat ≤ 100 ∧
    answerOf (exec .tick (rendering [] 0#2 500)) = some ⟨.ok, .sample 0⟩ := ⟨rfl, by decide, test_tick_silence.1⟩

end Sys2Proof.Tests
end

section
/-! PROOFS. The state as a whole (10_state.md): the invariant of the machine holds after RESET and is kept by every step; each piece of
state is written by the commands of its row of R20 only; the state after RESET; the level table. -/

namespace Sys2Proof.Machine

/-! ### What RESET leaves -/

/-- A volume RESET leaves unspecified is a legal one all the same (R32, R20). -/
theorem ofNat_fin101_le (v : Fin 101) : (BitVec.ofNat 7 v.val).toNat ≤ 100 := by
  rw [BitVec.toNat_ofNat]; omega

theorem Memory.read_empty (ch : Channel) (i : Nat) : Memory.empty.read ch i = none := Memory.read_eq_none_iff.2 (Nat.zero_le i)

/-- The state after any RESET meets the invariant (R32). -/
theorem State.afterReset_inv (k : Nat) (events : List Event) : (State.afterReset k events).Inv where
  liveWf := Memory.empty_wf
  snapWf := Memory.empty_wf
  liveReserved := Memory.forall_empty (p := fun w => w &&& slotMask = w)
  snapReserved := Memory.forall_empty (p := fun w => w &&& slotMask = w)
  volumeLegal := ofNat_fin101_le _
  sVolumeLegal := ofNat_fin101_le _
  cancelPlaying := by simp
  renderLength := by simp [Sys2Proof.Machine.renderLength]
  counter := Nat.le_refl _
  datapathClear := rfl

/-- With no event waiting the block does nothing (R200). -/
theorem step_of_inbox_nil {s : State} (h : s.inbox = []) : step s = .next s := by
  unfold step; rw [h]

/-! ### What PLAY does first -/

/-- The first branch of PLAY: the render ends, and the flag of one that was active falls (R163). -/
theorem State.endActiveRender_eq (s : State) :
    s.endActiveRender = { s with run := .idle, cancel := s.cancel && decide (s.run = .idle) } := by
  cases h : s.run with
  | playing => simp [State.endActiveRender, h, State.raiseCancel, State.setRun, State.clearCancel]
  | idle => rw [State.endActiveRender, h]; simp [← h]

@[simp] theorem State.endActiveRender_live (s : State) : s.endActiveRender.live = s.live := by rw [endActiveRender_eq]
@[simp] theorem State.endActiveRender_tempo (s : State) : s.endActiveRender.tempo = s.tempo := by rw [endActiveRender_eq]
@[simp] theorem State.endActiveRender_volume (s : State) : s.endActiveRender.volume = s.volume := by rw [endActiveRender_eq]
@[simp] theorem State.endActiveRender_mode (s : State) : s.endActiveRender.mode = s.mode := by rw [endActiveRender_eq]
@[simp] theorem State.endActiveRender_dp (s : State) : s.endActiveRender.dp = s.dp := by rw [endActiveRender_eq]

/-! ### What TICK leaves unchanged -/

/-- TICK writes neither the live state nor the snapshot, nor `N_END` (R20, R57). -/
structure TickFrame (s t : State) : Prop where
  live : t.live = s.live
  tempo : t.tempo = s.tempo
  volume : t.volume = s.volume
  mode : t.mode = s.mode
  nEnd : t.nEnd = s.nEnd
  snap : t.snap = s.snap
  sTempo : t.sTempo = s.sTempo
  sVolume : t.sVolume = s.sVolume
  sMode : t.sMode = s.sMode

/-- The three ways a TICK goes on: END while Idle, the end of the render, or one sample before `N_END` (R165). -/
theorem execTick_next_cases {s t : State} (h : execTick s = .next t) :
    t = s.respondEnd ∨ t = ((s.setRun .idle).clearCancel).respondEnd ∨
      (s.run = .playing ∧ s.n < s.nEnd ∧ ∃ d, t = tickResult s d) := by
  rcases execTick_cases s with ⟨-, e⟩ | ⟨-, -, e⟩ | ⟨hrun, hover, ⟨wA, wB, wT, wN, g, -, -, -, -, -, e⟩ | ⟨-, e⟩ | ⟨-, -, -, e⟩⟩
  · exact .inl (Host.Outcome.next.inj (h.symm.trans e))
  · exact .inr (.inl (Host.Outcome.next.inj (h.symm.trans e)))
  · obtain ⟨-, hn⟩ : s.cancel = false ∧ s.n < s.nEnd := by simpa [State.renderOver] using hover
    exact .inr (.inr ⟨hrun, hn, _, Host.Outcome.next.inj (h.symm.trans e)⟩)
  · rw [e] at h; cases h
  · rw [e] at h; cases h

theorem execTick_frame {s t : State} (h : execTick s = .next t) : TickFrame s t := by
  rcases execTick_next_cases h with rfl | rfl | ⟨-, -, d, rfl⟩ <;> constructor <;> rfl

/-! ### The invariant under the named updates -/

namespace State.Inv

variable {s : State}

theorem respond (h : s.Inv) (st : Status) (v : RespValue) : (s.respond st v).Inv := { h with }

theorem withInbox (h : s.Inv) (events : List Event) : (s.withInbox events).Inv := { h with }

theorem setLive (h : s.Inv) {m : Memory} (hw : m.wf) (hr : m.reservedClear) : (s.setLive m).Inv :=
  { h with liveWf := hw, liveReserved := hr }

theorem setTempo (h : s.Inv) (b : BitVec 16) : ({ s with tempo := b } : State).Inv := { h with }

theorem setVolume (h : s.Inv) {v : BitVec 7} (hv : v.toNat ≤ 100) : ({ s with volume := v } : State).Inv :=
  { h with volumeLegal := hv }

theorem setMode (h : s.Inv) (m : BitVec 2) : ({ s with mode := m } : State).Inv := { h with }

theorem raiseCancel (h : s.Inv) (hr : s.run = .playing) : s.raiseCancel.Inv := { h with cancelPlaying := fun _ => hr }

/-- The end of a render lowers both flags together (R165). -/
theorem endRender (h : s.Inv) : ((s.setRun .idle).clearCancel).Inv := { h with cancelPlaying := by simp }

/-- PLAY copies a live state that is canonical and legal, and starts the count at 0 (R163, R167). -/
theorem startRender (h : s.Inv) : ((s.endActiveRender.capture.resetRender).setRun .playing).Inv where
  liveWf := by simpa using h.liveWf
  snapWf := by simpa using h.liveWf
  liveReserved := by simpa using h.liveReserved
  snapReserved := by simpa using h.liveReserved
  volumeLegal := by simpa using h.volumeLegal
  sVolumeLegal := by simpa using h.volumeLegal
  cancelPlaying := by simp
  renderLength := rfl
  counter := Nat.zero_le _
  datapathClear := by simpa using h.datapathClear

/-- A sample is counted only before the end of the render, and leaves nothing between the stages (R165, R33). -/
theorem afterSample (h : s.Inv) (hn : s.n < s.nEnd) (d : Datapath) : (tickResult s d).Inv :=
  { h with counter := hn, datapathClear := rfl }

end State.Inv

theorem execTick_keeps_inv {s t : State} (hs : s.Inv) (h : execTick s = .next t) : t.Inv := by
  rcases execTick_next_cases h with rfl | rfl | ⟨-, hn, d, rfl⟩
  · exact hs.respond _ _
  · exact hs.endRender.respond _ _
  · exact hs.afterSample hn d

theorem exec_command_keeps_inv {i : Instr} {s t : State} (hi : i.isCommand = true) (hs : s.Inv) (h : exec i s = .next t) :
    t.Inv := by
  rcases exec_command_cases hi h with ⟨-, -, st, v, rfl⟩ | ⟨m, e, rfl⟩ | ⟨b, -, rfl⟩ | ⟨v, -, hv, rfl⟩ | ⟨m, -, rfl⟩ |
    ⟨-, hrun, rfl⟩ | ⟨-, rfl⟩ | ⟨-, htick⟩
  · exact hs.respond st v
  · exact (hs.setLive (e.wf hs.liveWf) (e.reservedClear hs.liveReserved)).respond _ _
  · exact (hs.setTempo b).respond _ _
  · exact (hs.setVolume hv).respond _ _
  · exact (hs.setMode m).respond _ _
  · exact (hs.raiseCancel hrun).respond _ _
  · exact hs.startRender.respond _ _
  · exact execTick_keeps_inv hs htick

/-! ### Which edits write the track -/

/-- `LEN` is written only by GROW, SHRINK and NEWTRACK (R20). -/
theorem LiveEdit.len_writer {m m' : Memory} {i : Instr} (e : LiveEdit m i m') (h : m'.len ≠ m.len) :
    ∃ c, i = .grow c ∨ i = .shrink c ∨ i = .newTrack := by
  cases e with
  | toggle => exact absurd (Memory.write_len ..) h
  | store => exact absurd (Memory.write_len ..) h
  | grow cnt => exact ⟨cnt, .inl rfl⟩
  | shrink cnt => exact ⟨cnt, .inr (.inl rfl)⟩
  | new => exact ⟨0, .inr (.inr rfl)⟩

/-- Step words are written only by SELECT, WRSTEP and the commands that change `LEN` (R20). -/
theorem LiveEdit.cells_writer {m m' : Memory} {i : Instr} (e : LiveEdit m i m') : ∃ ch step slot mask c,
    i = .select ch step slot ∨ i = .wrStep ch step mask ∨ i = .grow c ∨ i = .shrink c ∨ i = .newTrack := by
  cases e with
  | toggle ch step slot => exact ⟨ch, step, slot, 0, 0, .inl rfl⟩
  | store ch step mask => exact ⟨ch, step, 0, mask, 0, .inr (.inl rfl)⟩
  | grow cnt => exact ⟨.pulseA, 0, 0, 0, cnt, .inr (.inr (.inl rfl))⟩
  | shrink cnt => exact ⟨.pulseA, 0, 0, 0, cnt, .inr (.inr (.inr (.inl rfl)))⟩
  | new => exact ⟨.pulseA, 0, 0, 0, 0, .inr (.inr (.inr (.inr rfl)))⟩

/-! ### The level table -/

theorem level_succ (k : Fin 16) (h : k.val + 1 < 16) : level ⟨k.val + 1, h⟩ = level k + 2 / 15 := by
  simp only [level]; push_cast; ring

/-- An entry would be 0 at `k = 15/2` only, and that is no index (R27). -/
theorem level_ne_zero (k : Fin 16) : level k ≠ 0 := by
  intro h
  have h15 : (2 * k.val : V) = 15 := by unfold level at h; linarith
  have h15' : 2 * k.val = 15 := by exact_mod_cast h15
  omega

theorem GenOut.toV_eq_zero_iff (g : GenOut) : g.toV = 0 ↔ g = .silent := by
  cases g with
  | silent => simp [GenOut.toV]
  | level k => simp [GenOut.toV, level_ne_zero k]

end Sys2Proof.Machine

namespace Sys2Proof.Claims

open Sys2Proof.Machine

/-- Settles O54, by the event the step takes: RESET establishes the invariant, and every command keeps it. -/
theorem stepKeepsInvariant : Obligations.StepKeepsInvariant := by
  intro s t hs h
  rcases step_cases s with ⟨-, e⟩ | ⟨rest, -, e⟩ | ⟨cw, rest, i, -, hd, e⟩ | ⟨cw, rest, err, -, -, e⟩ <;> rw [e] at h
  · cases h; exact hs
  · cases h; exact State.afterReset_inv _ _
  · exact exec_command_keeps_inv (decode_isCommand hd) (hs.withInbox rest) h
  · cases h; exact (hs.withInbox rest).respond _ _

/-- Settles O51, by what the command did: each case names the fields it writes, and TICK's frame the fields it does not. -/
theorem stateWrittenOnlyByItsRow : Obligations.StateWrittenOnlyByItsRow := by
  intro i s t hi h
  rcases exec_command_cases hi h with ⟨-, -, st, v, rfl⟩ | ⟨m, e, rfl⟩ | ⟨b, rfl, rfl⟩ | ⟨v, rfl, -, rfl⟩ | ⟨m, rfl, rfl⟩ |
    ⟨rfl, -, rfl⟩ | ⟨rfl, rfl⟩ | ⟨rfl, htick⟩
  · simp -- only the response
  · exact ⟨e.len_writer, fun _ => e.cells_writer, by simp⟩
  · simp -- SETTEMPO
  · simp -- SETVOL
  · simp -- SETMODE
  · simp -- STOP
  · simp -- PLAY
  · obtain ⟨hlive, htempo, hvolume, hmode, hnEnd, hsnap, hsTempo, hsVolume, hsMode⟩ := execTick_frame htick
    simp [hlive, htempo, hvolume, hmode, hnEnd, hsnap, hsTempo, hsVolume, hsMode]

/-- Settles O8: RESET goes to `State.afterReset`, whose fields are R32's. -/
theorem resetLeavesBlockEmptyAndIdle : Obligations.ResetLeavesBlockEmptyAndIdle := fun s =>
  ⟨State.afterReset s.free s.inbox, rfl, rfl, Memory.read_empty, rfl, rfl, rfl, rfl, rfl, Memory.read_empty, rfl, rfl, rfl,
    ofNat_fin101_le _⟩

/-- Settles O9: R32's fields, and an empty inbox, with which a step waits. -/
theorem resetStateWaitsForCommands : Obligations.ResetStateWaitsForCommands :=
  ⟨rfl, rfl, rfl, rfl, rfl, rfl, rfl, rfl, rfl, step_of_inbox_nil rfl⟩

/-- Settles O44: `2 * k` is never 15. -/
theorem levelTableIsEvenlySpaced : Obligations.LevelTableIsEvenlySpaced :=
  ⟨by norm_num [level], by norm_num [level], level_succ, level_ne_zero, GenOut.toV_eq_zero_iff⟩

/-- Settles O53: the state right after reset is one a RESET leaves. -/
theorem resetMeetsInvariant : Obligations.ResetMeetsInvariant := State.afterReset_inv 0 []

end Sys2Proof.Claims
end

section
/-! PROOFS. The step memories as the engine and the host use them (20_memory.md): a step runs the operation that arrives; TICK sees the
snapshot and not the live side; what a step can stop on. -/

namespace Sys2Proof

/-- TICK has one word, its row of R73 without a free bit. -/
theorem eq_tickWord_of_decode {cw : CmdWord} (h : decode cw = .ok .tick) : cw = 0x2200000000000000#64 := by
  unfold decode at h
  simp only at h
  split at h <;> simp only [checked_eq_ok_iff, reduceCtorEq, false_and] at h
  next hop =>
    obtain ⟨-, hzero, hch, hstep, harg⟩ := h
    have hop' : opField cw = 0x22#8 := BitVec.eq_of_toNat_eq hop
    rw [cmdWord_ext_iff, hop', hzero, hch trivial, hstep trivial, show argField cw = 0#32 by simpa using harg]
    decide

end Sys2Proof

namespace Sys2Proof.Machine

/-! ### The event a step takes -/

theorem step_of_inbox_command {s : State} {cw : CmdWord} {rest : List Event} {i : Instr} (h : s.inbox = .command cw :: rest)
    (hd : decode cw = .ok i) : step s = exec i (s.withInbox rest) := by
  unfold step; simp only [h, hd]

theorem step_of_inbox_reset {s : State} {rest : List Event} (h : s.inbox = .reset :: rest) :
    step s = exec .reset (s.withInbox rest) := by
  unfold step; simp only [h]

/-- A table word that decodes is the command word at the port (R71). -/
theorem decode_tableWord {nbits w : Nat} {i : Instr} (h : decodeTableWord nbits w = some i) : decode (tableWord nbits w) = .ok i := by
  unfold decodeTableWord at h
  unfold tableWord
  simp only at h
  split at h
  · split at h
    · next j hd => rw [hd, Option.some.inj h]
    · cases h
  · cases h

/-- The word that arrives is the next event, and a step takes it away again (R57). -/
theorem step_withFetchWord {nbits w : Nat} {i : Instr} (s : State) (h : decodeTableWord nbits w = some i) :
    step (s.withFetchWord nbits w) = exec i s :=
  step_of_inbox_command (s := s.withFetchWord nbits w) rfl (decode_tableWord h)

/-! ### TICK, branch by branch (R165) -/

theorem execTick_of_idle {s : State} (hr : s.run = .idle) : execTick s = .next s.respondEnd := by
  simp only [execTick, hr]

theorem execTick_of_renderOver {s : State} (hr : s.run = .playing) (ho : s.renderOver = true) :
    execTick s = .next ((s.setRun .idle).clearCancel).respondEnd := by
  simp only [execTick, hr, ho, if_true]

theorem execTick_of_rendering {s : State} (hr : s.run = .playing) (ho : s.renderOver = false) :
    execTick s = andThen (sampleStages s) fun s => .next s.deliver := by
  simp only [execTick, hr, ho, Bool.false_eq_true, if_false]

section Rendering

variable {s : State} {wA wB wT wN : StepWord} {g : GenOut}

theorem execTick_of_sample_next (hr : s.run = .playing) (ho : s.renderOver = false)
    (hA : snapWord s.snap .pulseA (stepIndex s.n s.sTempo.toNat s.snap.len) = some wA)
    (hB : snapWord s.snap .pulseB (stepIndex s.n s.sTempo.toNat s.snap.len) = some wB)
    (hT : snapWord s.snap .triangle (stepIndex s.n s.sTempo.toNat s.snap.len) = some wT)
    (hN : snapWord s.snap .noise (stepIndex s.n s.sTempo.toNat s.snap.len) = some wN)
    (hg : triangle s.n (noteIndex .triangle wT) (tickFreq s.sMode (noteIndex .triangle wT)) (triLegacyBit s.sMode) = some g) :
    execTick s = .next (tickResult s (tickDatapath s wA wB wT wN g)) :=
  (execTick_of_rendering hr ho).trans (sample_next hA hB hT hN hg)

theorem execTick_of_sample_fault (hr : s.run = .playing) (ho : s.renderOver = false)
    (hi : ¬ (0 ≤ stepIndex s.n s.sTempo.toNat s.snap.len ∧ (stepIndex s.n s.sTempo.toNat s.snap.len).toNat < s.snap.len)) :
    execTick s = .fault .noSuchStep := by
  rw [execTick_of_rendering hr ho, sample_fault hi, andThen_fault]

theorem execTick_of_sample_refused (hr : s.run = .playing) (ho : s.renderOver = false)
    (hT : snapWord s.snap .triangle (stepIndex s.n s.sTempo.toNat s.snap.len) = some wT)
    (hg : triangle s.n (noteIndex .triangle wT) (tickFreq s.sMode (noteIndex .triangle wT)) (triLegacyBit s.sMode) = none) :
    execTick s = .refused .legacyTriangleNegativeIndex := by
  have hi := (snapWord_isSome ..).1 (Option.isSome_of_eq_some hT)
  rw [execTick_of_rendering hr ho, sample_refused hi hT hg, andThen_refused]

end Rendering

/-! ### What TICK does not see -/

open Sys2Proof.Claims in
/-- Each branch of TICK is chosen by fields that the live side does not hold, and its result holds the live side as it was (R57). -/
theorem execTick_withLiveSide (s : State) (live : Memory) (tempo : BitVec 16) (volume : BitVec 7) (mode : BitVec 2)
    (inbox : List Event) : execTick (withLiveSide s live tempo volume mode inbox) =
      mapNext (fun t => withLiveSide t live tempo volume mode inbox) (execTick s) := by
  rcases execTick_cases s with ⟨hr, e⟩ | ⟨hr, ho, e⟩ |
    ⟨hr, ho, ⟨wA, wB, wT, wN, g, hA, hB, hT, hN, hg, e⟩ | ⟨hi, e⟩ | ⟨wT, hT, hg, e⟩⟩ <;> rw [e]
  · exact execTick_of_idle hr
  · exact execTick_of_renderOver hr ho
  · exact execTick_of_sample_next hr ho hA hB hT hN hg
  · exact execTick_of_sample_fault hr ho hi
  · exact execTick_of_sample_refused hr ho hT hg

/-! ### What a step can stop on -/

/-- Under the invariant TICK goes on, or it is refused in the legacy triangle mode: a render in flight has a step to play, so the
engine's reads exist (R53), and only the unfolded triangle lacks an output (R126). -/
theorem State.Inv.execTick_outcome {s : State} (hs : s.Inv) : (∃ t, execTick s = .next t) ∨
    (execTick s = .refused .legacyTriangleNegativeIndex ∧ s.run = .playing ∧ s.sMode.getLsbD 1 = true) := by
  rcases execTick_cases s with ⟨-, e⟩ | ⟨-, -, e⟩ | ⟨hr, ho, ⟨wA, wB, wT, wN, g, -, -, -, -, -, e⟩ | ⟨hi, -⟩ | ⟨wT, -, hg, e⟩⟩
  · exact .inl ⟨_, e⟩
  · exact .inl ⟨_, e⟩
  · exact .inl ⟨_, e⟩
  · obtain ⟨-, hn⟩ : s.cancel = false ∧ s.n < s.nEnd := by simpa [State.renderOver] using ho
    exact absurd (stepIndex_in_range (hs.steps hn)) hi
  · exact .inr ⟨e, hr, (triangle_eq_none_iff.1 hg).1⟩

/-- Under the invariant a step goes on, or it is the refused TICK of the legacy triangle mode (R126, R180). -/
theorem State.Inv.step_outcome {s : State} (hs : s.Inv) : (∃ t, step s = .next t) ∨
    (step s = .refused .legacyTriangleNegativeIndex ∧ s.run = .playing ∧ s.sMode.getLsbD 1 = true ∧
      ∃ rest, s.inbox = .command 0x2200000000000000#64 :: rest) := by
  rcases step_cases s with ⟨-, e⟩ | ⟨rest, -, e⟩ | ⟨cw, rest, i, hin, hd, e⟩ | ⟨cw, rest, err, -, -, e⟩
  · exact .inl ⟨_, e⟩
  · exact .inl ⟨_, e⟩
  · rw [e]
    by_cases hi : i = .tick
    · subst hi
      rcases (hs.withInbox rest).execTick_outcome with h | ⟨h, hr, hm⟩
      · exact .inl h
      · exact .inr ⟨h, hr, hm, rest, eq_tickWord_of_decode hd ▸ hin⟩
    · exact .inl (exec_command_goes_on _ (decode_isCommand hd) hi)
  · exact .inl ⟨_, e⟩

end Sys2Proof.Machine

namespace Sys2Proof.Claims

open Sys2Proof.Machine

/-- Settles O55, from the outcomes a step has under the invariant. -/
theorem stepStopsOnlyInLegacyTriangle : Obligations.StepStopsOnlyInLegacyTriangle := by
  intro s hs
  rcases hs.step_outcome with ⟨t, e⟩ | ⟨e, hlegacy⟩ <;> rw [e]
  · exact ⟨nofun, nofun⟩
  · exact ⟨nofun, fun _ h => ⟨(Host.Outcome.refused.inj h).symm, hlegacy⟩⟩

/-- Settles O59: no branch of TICK reads or writes the live side. -/
theorem tickIgnoresLiveState : Obligations.TickIgnoresLiveState := execTick_withLiveSide

/-- Settles O7, by the event at the head of the inbox. -/
theorem stepRunsTheNextOperation : Obligations.StepRunsTheNextOperation :=
  ⟨fun _ _ _ _ => step_of_inbox_command, fun _ _ => step_of_inbox_reset, fun _ => step_of_inbox_nil,
    fun s _ _ _ => step_withFetchWord s⟩

end Sys2Proof.Claims
end

section
/-! PROOFS. The encoding (30_encoding.md): a word decodes to an operation exactly when it is that operation's word; a row's match
and mask say the same as its must-be-zero fields; an illegal word changes nothing; TICK is the run of its stages; RESIZE reaches its
length. -/

namespace Sys2Proof

/-! ### The format of a row -/

/-- A row of R72 and R73: its `op`, whether it has a `ch` and a `step` operand, and how many low bits of `arg` it uses. -/
structure Format where
  op : BitVec 8
  useCh : Bool
  useStep : Bool
  argBits : Nat

/-- The format of a command; none for a stage or RESET, which no word encodes (R74, R200). -/
def Instr.format : Instr → Option Format
  | .select _ _ _ => some ⟨0x01#8, true, true, 4⟩
  | .isSel _ _ _ => some ⟨0x02#8, true, true, 4⟩
  | .noteIdx _ _ => some ⟨0x03#8, true, true, 0⟩
  | .grow _ => some ⟨0x04#8, false, false, 16⟩
  | .shrink _ => some ⟨0x05#8, false, false, 16⟩
  | .getLen => some ⟨0x06#8, false, false, 0⟩
  | .newTrack => some ⟨0x07#8, false, false, 0⟩
  | .wrStep _ _ _ => some ⟨0x08#8, true, true, 16⟩
  | .rdStep _ _ => some ⟨0x09#8, true, true, 0⟩
  | .setTempo _ => some ⟨0x10#8, false, false, 16⟩
  | .setVol _ => some ⟨0x11#8, false, false, 7⟩
  | .setMode _ => some ⟨0x12#8, false, false, 2⟩
  | .play => some ⟨0x20#8, false, false, 0⟩
  | .stop => some ⟨0x21#8, false, false, 0⟩
  | .tick => some ⟨0x22#8, false, false, 0⟩
  | _ => none

/-- The operation of the same row with the operands of the word (R71, R72). -/
def Instr.withOperandsOf (cw : CmdWord) : Instr → Instr
  | .select _ _ _ => .select (Channel.ofBits (chField cw)) (stepField cw) ((argField cw).extractLsb' 0 4)
  | .isSel _ _ _ => .isSel (Channel.ofBits (chField cw)) (stepField cw) ((argField cw).extractLsb' 0 4)
  | .noteIdx _ _ => .noteIdx (Channel.ofBits (chField cw)) (stepField cw)
  | .grow _ => .grow ((argField cw).extractLsb' 0 16)
  | .shrink _ => .shrink ((argField cw).extractLsb' 0 16)
  | .wrStep _ _ _ => .wrStep (Channel.ofBits (chField cw)) (stepField cw) ((argField cw).extractLsb' 0 16)
  | .rdStep _ _ => .rdStep (Channel.ofBits (chField cw)) (stepField cw)
  | .setTempo _ => .setTempo ((argField cw).extractLsb' 0 16)
  | .setVol _ => .setVol ((argField cw).extractLsb' 0 7)
  | .setMode _ => .setMode ((argField cw).extractLsb' 0 2)
  | i => i

/-- The word has the row's `op`, and every bit that must be zero is zero (R76). -/
structure Format.Allows (f : Format) (cw : CmdWord) : Prop where
  op : opField cw = f.op
  zero : zeroField cw = 0#6
  ch : f.useCh = false → chField cw = 0#2
  step : f.useStep = false → stepField cw = 0#16
  arg : argField cw >>> f.argBits = 0#32

/-- The row's `match`: its `op`, and 0 elsewhere (R73). -/
def Format.matchWord (f : Format) : CmdWord := packFields f.op 0#2 0#16 0#32

/-- The row's `mask`: every bit but those of its operands (R73). -/
def Format.mask (f : Format) : CmdWord :=
  ~~~packFields 0#8 (if f.useCh then BitVec.allOnes 2 else 0#2) (if f.useStep then BitVec.allOnes 16 else 0#16)
    (~~~(BitVec.allOnes 32 <<< f.argBits))

theorem Instr.format_withOperandsOf (cw : CmdWord) (i : Instr) : (i.withOperandsOf cw).format = i.format := by
  cases i <;> rfl

theorem Instr.withOperandsOf_idem (cw : CmdWord) (i : Instr) : (i.withOperandsOf cw).withOperandsOf cw = i.withOperandsOf cw := by
  cases i <;> rfl

/-- The match and mask columns of R73 are those of the formats. -/
theorem Instr.matchMask_eq_format (i : Instr) : i.matchMask = i.format.map fun f => (f.matchWord, f.mask) := by
  cases i <;> rfl

theorem Instr.matchMask_eq_some_iff {i : Instr} {m k : CmdWord} :
    i.matchMask = some (m, k) ↔ ∃ f, i.format = some f ∧ f.matchWord = m ∧ f.mask = k := by
  simp [Instr.matchMask_eq_format]

/-! ### The operand in the low bits of `arg` -/

theorem ushiftRight_eq_zero_iff (a : BitVec 32) (k : Nat) : a >>> k = 0#32 ↔ a.toNat < 2 ^ k := by
  rw [← BitVec.toNat_inj, BitVec.toNat_ushiftRight, Nat.shiftRight_eq_div_pow]
  simp [Nat.div_eq_zero_iff]

theorem and_allOnes_shiftLeft_eq_zero_iff (a : BitVec 32) (k : Nat) : a &&& BitVec.allOnes 32 <<< k = 0#32 ↔ a >>> k = 0#32 := by
  have hlt : a.toNat / 2 ^ k * 2 ^ k < 2 ^ 32 := (Nat.div_mul_le_self _ _).trans_lt a.isLt
  rw [← BitVec.shiftLeft_ushiftRight, ← BitVec.toNat_inj, ushiftRight_eq_zero_iff, BitVec.toNat_shiftLeft,
    BitVec.toNat_ushiftRight, Nat.shiftRight_eq_div_pow, Nat.shiftLeft_eq, Nat.mod_eq_of_lt hlt]
  simp [Nat.div_eq_zero_iff]

theorem setWidth_ushiftRight_self {n : Nat} (x : BitVec n) : x.setWidth 32 >>> n = 0#32 := by
  rw [ushiftRight_eq_zero_iff, BitVec.toNat_setWidth]
  exact (Nat.mod_le _ _).trans_lt x.isLt

theorem setWidth_extractLsb' {n : Nat} {a : BitVec 32} (h : a >>> n = 0#32) : (a.extractLsb' 0 n).setWidth 32 = a := by
  rw [ushiftRight_eq_zero_iff] at h
  apply BitVec.eq_of_toNat_eq
  simp [Nat.mod_eq_of_lt h, a.isLt]

/-! ### Match and mask -/

theorem opField_not (a : CmdWord) : opField (~~~a) = ~~~opField a := by
  unfold opField; ext i hi; simp; omega

theorem zeroField_not (a : CmdWord) : zeroField (~~~a) = ~~~zeroField a := BitVec.extractLsb'_not_of_lt (by decide)

theorem chField_not (a : CmdWord) : chField (~~~a) = ~~~chField a := BitVec.extractLsb'_not_of_lt (by decide)

theorem stepField_not (a : CmdWord) : stepField (~~~a) = ~~~stepField a := BitVec.extractLsb'_not_of_lt (by decide)

theorem argField_not (a : CmdWord) : argField (~~~a) = ~~~argField a := BitVec.extractLsb'_not_of_lt (by decide)

theorem and_not_operand_eq_zero_iff {n : Nat} (x : BitVec n) (use : Bool) :
    x &&& ~~~(if use then BitVec.allOnes n else 0#n) = 0#n ↔ (use = false → x = 0#n) := by
  cases use <;> simp

/-- R73's test of a word, taken field by field, is R76's test of the bits that must be zero. -/
theorem Format.and_mask_eq_iff (f : Format) (cw : CmdWord) : cw &&& f.mask = f.matchWord ↔ f.Allows cw := by
  simp only [cmdWord_ext_iff, mask, matchWord, opField_and, zeroField_and, chField_and, stepField_and, argField_and, opField_not,
    zeroField_not, chField_not, stepField_not, argField_not, opField_pack, zeroField_pack, chField_pack, stepField_pack,
    argField_pack, and_not_operand_eq_zero_iff, BitVec.not_not, and_allOnes_shiftLeft_eq_zero_iff, BitVec.not_zero,
    BitVec.and_allOnes, -BitVec.reduceNot]
  exact ⟨fun ⟨hop, hzero, hch, hstep, harg⟩ => ⟨hop, hzero, hch, hstep, harg⟩,
    fun ⟨hop, hzero, hch, hstep, harg⟩ => ⟨hop, hzero, hch, hstep, harg⟩⟩

/-! ### Decoder and encoder, row by row -/

/-- A word with the `op` of a row is decoded by that row's checks. -/
theorem decode_eq_checked {cw : CmdWord} {i : Instr} {f : Format} (hf : i.format = some f) (hop : opField cw = f.op) :
    decode cw = checked cw f.useCh f.useStep f.argBits (i.withOperandsOf cw) := by
  cases i <;> cases hf <;> simp only [decode, hop] <;> rfl

theorem format_of_decode {cw : CmdWord} {i : Instr} (h : decode cw = .ok i) : ∃ f, i.format = some f ∧ opField cw = f.op := by
  unfold decode at h
  simp only at h
  split at h <;> simp only [checked_eq_ok_iff, reduceCtorEq] at h <;> obtain ⟨rfl, -⟩ := h <;>
    exact ⟨_, rfl, BitVec.eq_of_toNat_eq ‹_›⟩

/-- A word decodes to an operation exactly when its row allows the word and its operands are the word's (R71 to R73, R76). -/
theorem decode_eq_ok_iff {cw : CmdWord} {i : Instr} :
    decode cw = .ok i ↔ ∃ f, i.format = some f ∧ f.Allows cw ∧ i.withOperandsOf cw = i := by
  constructor
  · intro h
    obtain ⟨f, hf, hop⟩ := format_of_decode h
    rw [decode_eq_checked hf hop, checked_eq_ok_iff] at h
    obtain ⟨hi, hzero, hch, hstep, harg⟩ := h
    exact ⟨f, hf, ⟨hop, hzero, hch, hstep, harg⟩, hi⟩
  · rintro ⟨f, hf, ⟨hop, hzero, hch, hstep, harg⟩, hi⟩
    rw [decode_eq_checked hf hop, checked_eq_ok_iff]
    exact ⟨hi, hzero, hch, hstep, harg⟩

/-- The word of an operation is one its row allows, and holds its operands. -/
theorem allows_of_encode {cw : CmdWord} {i : Instr} (h : encode i = some cw) :
    ∃ f, i.format = some f ∧ f.Allows cw ∧ i.withOperandsOf cw = i := by
  cases i <;> cases h
  all_goals
    refine ⟨_, rfl, ⟨?_, ?_, ?_, ?_, ?_⟩, ?_⟩ <;>
      simp [Instr.withOperandsOf, setWidth_ushiftRight_self, BitVec.extractLsb'_setWidth_of_le]

/-- The operands of a word that a row allows, encoded, give the word back. -/
theorem encode_withOperandsOf {cw : CmdWord} {i : Instr} {f : Format} (hf : i.format = some f) (h : f.Allows cw) :
    encode (i.withOperandsOf cw) = some cw := by
  obtain ⟨hop, hzero, hch, hstep, harg⟩ := h
  cases i <;> cases hf
  all_goals
    rw [← packFields_fields hzero, hop]
    simp_all [Instr.withOperandsOf, encode, Channel.bits_ofBits, setWidth_extractLsb']

/-- Decoder and encoder are each other's inverse: a word decodes to an operation exactly when it is the operation's word. -/
theorem decode_eq_ok_iff_encode {cw : CmdWord} {i : Instr} : decode cw = .ok i ↔ encode i = some cw := by
  rw [decode_eq_ok_iff]
  constructor
  · rintro ⟨f, hf, hallows, hi⟩
    rw [← hi, encode_withOperandsOf hf hallows]
  · exact allows_of_encode

/-- Exactly the commands have a row (R73, R74). -/
theorem encode_isSome (i : Instr) : (encode i).isSome = i.isCommand := by cases i <;> rfl

/-- Only a frequency stage can be ill formed (R116). -/
theorem Instr.wellFormed_of_isCommand {i : Instr} (h : i.isCommand = true) : i.wellFormed = true := by
  cases i <;> simp_all [Instr.isCommand, Instr.wellFormed]

/-- R73 and R76 agree: the masked word is the row's match exactly when it decodes to an operation of the row. -/
theorem and_mask_eq_match_iff_decode {i : Instr} {m k cw : CmdWord} (h : i.matchMask = some (m, k)) :
    cw &&& k = m ↔ ∃ j, decode cw = .ok j ∧ j.matchMask = some (m, k) := by
  obtain ⟨f, hf, rfl, rfl⟩ := Instr.matchMask_eq_some_iff.1 h
  constructor
  · intro hm
    have hf' : (i.withOperandsOf cw).format = some f := (i.format_withOperandsOf cw).trans hf
    exact ⟨i.withOperandsOf cw, decode_eq_ok_iff.2 ⟨f, hf', f.and_mask_eq_iff cw |>.1 hm, i.withOperandsOf_idem cw⟩,
      Instr.matchMask_eq_some_iff.2 ⟨f, hf', rfl, rfl⟩⟩
  · rintro ⟨j, hd, hj⟩
    obtain ⟨g, hg, hallows, -⟩ := decode_eq_ok_iff.1 hd
    obtain ⟨g', hg', hmatch, hmask⟩ := Instr.matchMask_eq_some_iff.1 hj
    cases hg.symm.trans hg'
    rw [← hmatch, ← hmask]
    exact (g.and_mask_eq_iff cw).2 hallows

/-- A word that matches no row is rejected (R76). -/
theorem decode_error_of_no_match {cw : CmdWord} (h : ∀ (i : Instr) m k, i.matchMask = some (m, k) → cw &&& k ≠ m) :
    ∃ e, decode cw = .error e := by
  cases hd : decode cw with
  | error e => exact ⟨e, rfl⟩
  | ok i =>
    obtain ⟨f, hf, hallows, -⟩ := decode_eq_ok_iff.1 hd
    exact absurd ((f.and_mask_eq_iff cw).2 hallows) (h i _ _ (Instr.matchMask_eq_some_iff.2 ⟨f, hf, rfl, rfl⟩))

/-! ### Why a word is rejected -/

/-- The checks of a row reject a word for a bit of the zero field, of a field without an operand, or of `arg` above the operand
(R76). -/
theorem checked_eq_error_iff {cw : CmdWord} {useCh useStep : Bool} {k : Nat} {i : Instr} :
    (∃ e, checked cw useCh useStep k i = .error e) ↔ zeroField cw ≠ 0#6 ∨ (useCh = false ∧ chField cw ≠ 0#2) ∨
      (useStep = false ∧ stepField cw ≠ 0#16) ∨ 2 ^ k ≤ (argField cw).toNat := by
  have hnot : (∃ e, checked cw useCh useStep k i = .error e) ↔ ¬ checked cw useCh useStep k i = .ok i := by
    rcases checked_cases cw useCh useStep k i with h | ⟨e, h⟩ <;> simp [h]
  simp only [hnot, checked_eq_ok_iff, ushiftRight_eq_zero_iff, true_and, not_and_or, Classical.not_imp, Nat.not_lt, ne_eq]

/-- The fifteen codes of R73. -/
def assignedOps : List Nat := [0x01, 0x02, 0x03, 0x04, 0x05, 0x06, 0x07, 0x08, 0x09, 0x10, 0x11, 0x12, 0x20, 0x21, 0x22]

theorem decode_of_unassigned {cw : CmdWord} (h : (opField cw).toNat ∉ assignedOps) : decode cw = .error .unassignedOp := by
  simp only [assignedOps, List.mem_cons, List.not_mem_nil, or_false] at h
  unfold decode
  simp only
  split <;> simp_all only [not_true_eq_false, true_or, or_true]

end Sys2Proof

namespace Sys2Proof.Machine

/-- A word the decoder rejects is used up and answered, and that is all (R76). -/
theorem step_of_inbox_illegal {s : State} {cw : CmdWord} {rest : List Event} {e : DecodeError} (h : s.inbox = .command cw :: rest)
    (hd : decode cw = .error e) : step s = illegalWord (s.withInbox rest) := by
  unfold step; simp only [h, hd]

/-! ### Runs of operations -/

theorem andThen_assoc (o : Host.Outcome State Fault Refusal) (f g : State → Host.Outcome State Fault Refusal) :
    andThen (andThen o f) g = andThen o fun s => andThen (f s) g := by
  cases o <;> rfl

@[simp] theorem andThen_next_right (o : Host.Outcome State Fault Refusal) : andThen o .next = o := by cases o <;> rfl

@[simp] theorem runAll_nil : runAll [] = .next := rfl

@[simp] theorem runAll_cons (i : Instr) (is : List Instr) : runAll (i :: is) = fun s => andThen (exec i s) (runAll is) := rfl

theorem runAll_singleton (i : Instr) (s : State) : runAll [i] s = exec i s := by simp

theorem runAll_append (is js : List Instr) (s : State) : runAll (is ++ js) s = andThen (runAll is s) (runAll js) := by
  induction is generalizing s with
  | nil => rfl
  | cons i is ih => simp [andThen_assoc, funext ih]

/-! ### The stages of TICK as a run (R74) -/

theorem exec_tick (s : State) : exec .tick s = execTick s := rfl

theorem runAll_stepIdx_notes (s : State) : runAll [.stepIdx, .note .pulseA, .note .pulseB, .note .triangle, .note .noise] s =
    noteStages (stepIdxStage s) := by
  simp [exec, execStepIdx, execNote, noteStages]

/-- The frequency stage of one channel is the run of the one instruction that is selected, or of none (R114, R122). -/
theorem runAll_selected (ch : Channel) (s : State) :
    runAll (if s.dp.note.get ch = -1 then [] else if s.sMode.getLsbD 0 then [.freqEt ch] else [.freqHw ch]) s =
      .next (freqStage ch s) := by
  unfold freqStage freqEtBit
  split
  · rfl
  · split <;> rfl

@[simp] theorem freqStage_note (ch : Channel) (s : State) : (freqStage ch s).dp.note = s.dp.note := by rw [freqStage_eq]; rfl

@[simp] theorem freqStage_sMode (ch : Channel) (s : State) : (freqStage ch s).sMode = s.sMode := by rw [freqStage_eq]; rfl

open Sys2Proof.Claims in
/-- The instructions are selected by the notes and the mode, which no frequency stage writes. -/
theorem runAll_freqInstrs (s : State) : runAll (freqInstrs s) s = .next (freqStages s) := by
  have hB := runAll_selected .pulseB (freqStage .pulseA s)
  have hT := runAll_selected .triangle (freqStage .pulseB (freqStage .pulseA s))
  simp only [freqStage_note, freqStage_sMode] at hB hT
  simp only [freqInstrs, List.flatMap_cons, List.flatMap_nil, List.append_nil, runAll_append, runAll_selected, andThen_next, hB, hT]
  rfl

theorem runAll_generators_output (s : State) :
    runAll [.pulseA, .pulseB, .tri, .noise, .mixPulse, .mixTnd, .mixSum, .hpfA, .hpfB, .lpf, .gain] s =
      andThen (triStage (pulseBStage (pulseAStage s))) fun s => .next (outputStages (noiseStage s)) := rfl

/-! ### GROW and SHRINK within the limits (R94, R95) -/

theorem exec_grow_of_le {s : State} {cnt : BitVec 16} (h : s.live.len + cnt.toNat ≤ lMax) :
    exec (.grow cnt) s = .next ((s.setLive (s.live.grow cnt.toNat)).answer 0#32) :=
  if_neg (Nat.not_lt.2 h)

theorem exec_shrink_of_le {s : State} {cnt : BitVec 16} (h : cnt.toNat ≤ s.live.len) :
    exec (.shrink cnt) s = .next ((s.setLive (s.live.shrink cnt.toNat)).answer 0#32) :=
  if_neg (Nat.not_lt.2 h)

/-- A difference of lengths fits the 16 bits of `cnt` (R72). -/
theorem toNat_ofNat_sub {a b : Nat} (h : a ≤ lMax) : (BitVec.ofNat 16 (a - b)).toNat = a - b := by
  have hmax : lMax = 65535 := rfl
  exact Nat.mod_eq_of_lt (by omega)

/-- RESIZE to a shorter length is one SHRINK that succeeds (R82). -/
theorem runAll_resize_shorter {s : State} {len : BitVec 16} (hs : s.live.len ≤ lMax) (h : len.toNat < s.live.len) :
    runAll (Pseudo.expand s.live.len (.resize len)) s =
      .next ((s.setLive (s.live.shrink (s.live.len - len.toNat))).answer 0#32) := by
  have hcnt := toNat_ofNat_sub (b := len.toNat) hs
  rw [Pseudo.expand, if_neg (by omega), if_neg (by omega), runAll_singleton, exec_shrink_of_le (by omega), hcnt]

/-- RESIZE to a longer length is one GROW that succeeds (R82): 16 bits hold no length above `LMAX`. -/
theorem runAll_resize_longer {s : State} {len : BitVec 16} (h : s.live.len < len.toNat) :
    runAll (Pseudo.expand s.live.len (.resize len)) s =
      .next ((s.setLive (s.live.grow (len.toNat - s.live.len))).answer 0#32) := by
  have hmax : len.toNat ≤ lMax := Nat.le_of_lt_succ len.isLt
  have hcnt := toNat_ofNat_sub (b := s.live.len) hmax
  rw [Pseudo.expand, if_neg (by omega), if_pos h, runAll_singleton, exec_grow_of_le (by omega), hcnt]

theorem runAll_resize_same {s : State} {len : BitVec 16} (h : len.toNat = s.live.len) :
    runAll (Pseudo.expand s.live.len (.resize len)) s = .next s := by
  rw [Pseudo.expand, if_pos h, runAll_nil]

end Sys2Proof.Machine

namespace Sys2Proof.Claims

open Sys2Proof.Machine

/-- Settles O1: decoder and encoder are each other's inverse, and the rows are those of the commands. -/
theorem decodeOfEncodeIsIdentity : Obligations.DecodeOfEncodeIsIdentity :=
  ⟨fun _ _ => decode_eq_ok_iff_encode.2, encode_isSome⟩

/-- Settles O2: decoder and encoder are each other's inverse, and a command is well formed. -/
theorem encodeOfDecodeIsIdentity : Obligations.EncodeOfDecodeIsIdentity := fun _ _ h =>
  ⟨decode_eq_ok_iff_encode.1 h, Instr.wellFormed_of_isCommand (decode_isCommand h)⟩

/-- Settles O3: match and mask test the fields that the decoder checks. -/
theorem decodeFollowsMatchAndMask : Obligations.DecodeFollowsMatchAndMask := fun _ _ _ h _ => and_mask_eq_match_iff_decode h

/-- Settles O5: the decoder rejects the word, and the step answers it. -/
theorem illegalWordChangesNothing : Obligations.IllegalWordChangesNothing := by
  intro s cw rest hin hno
  obtain ⟨e, hd⟩ := decode_error_of_no_match hno
  exact step_of_inbox_illegal hin hd

/-- Settles O6: without a row the word is rejected; with one, it is rejected by that row's checks. -/
theorem mustBeZeroFieldsAreChecked : Obligations.MustBeZeroFieldsAreChecked := by
  intro cw
  by_cases hop : (opField cw).toNat ∈ assignedOps
  · have harg : argField cw = 0#32 ↔ (argField cw).toNat = 0 := BitVec.toNat_inj.symm
    simp only [assignedOps, List.mem_cons, List.not_mem_nil, or_false] at hop
    rcases hop with h | h | h | h | h | h | h | h | h | h | h | h | h | h | h <;>
      simp [decode, h, checked_eq_error_iff, or_assoc, harg, Nat.one_le_iff_ne_zero]
  · exact iff_of_true (.inl hop) ⟨_, decode_of_unassigned hop⟩

/-- Settles O28: the datapath is clear before a TICK, and the run of the stage instructions composes the stages as TICK does. -/
theorem tickRunsStagesInOrder : Obligations.TickRunsStagesInOrder := by
  intro s hs hr hc hn
  have hover : s.renderOver = false := by simp [State.renderOver, hc, hn]
  have hclear : s.setDp Datapath.cleared = s := by rw [← hs.datapathClear]; rfl
  simp only [runAll_append, runAll_stepIdx_notes, runAll_freqInstrs, runAll_generators_output, andThen_next]
  rw [exec_tick, execTick_of_rendering hr hover, sampleStages, hclear, andThen_assoc]
  rfl

/-- Settles O33, by the sign of the change of length: nothing, one GROW, or one SHRINK. -/
theorem resizeReachesLength : Obligations.ResizeReachesLength := by
  intro s len hwf
  rcases Nat.lt_trichotomy len.toNat s.live.len with h | h | h
  · refine ⟨_, runAll_resize_shorter hwf.1 h, Nat.sub_sub_self h.le, fun ch i _ hi => ?_, fun ch i hi hi' => by omega⟩
    have hi' : i < s.live.len - (s.live.len - len.toNat) := by omega
    exact (Memory.read_shrink hwf ch i _).trans (if_pos hi')
  · exact ⟨s, runAll_resize_same h, h.symm, fun _ _ _ _ => rfl, fun ch i hi hi' => by omega⟩
  · have hmax : s.live.len + (len.toNat - s.live.len) ≤ lMax := by
      rw [Nat.add_sub_cancel' h.le]; exact Nat.le_of_lt_succ len.isLt
    have hread ch i := Memory.read_grow hwf ch i (len.toNat - s.live.len) hmax
    refine ⟨_, runAll_resize_longer h, Nat.add_sub_cancel' h.le, fun ch i hi _ => ?_, fun ch i hi hi' => ?_⟩
    · exact (hread ch i).trans (if_pos hi)
    · have hnew : i < s.live.len + (len.toNat - s.live.len) := by omega
      exact (hread ch i).trans ((if_neg (Nat.not_lt.2 hi)).trans (if_pos hnew))

/-- Settles O4: each word is the encoding of its operation. -/
theorem programWordsDecode : Obligations.ProgramWordsDecode := by
  unfold Obligations.ProgramWordsDecode
  simp only [decode_eq_ok_iff_encode]
  decide

end Sys2Proof.Claims
end

section
/-! PROOFS. The step model (40_step_model.md): the error answers of R182; what each command of R90 to R99 does within its range; two
SELECTs in a row; without WRSTEP no word gets a second bit. -/

namespace Sys2Proof.Machine

/-! ### Commands out of range (R180, R182) -/

open Sys2Proof.Claims in
/-- An operand out of range is answered before any write (R180). -/
theorem exec_of_rangeCondition {s : State} {i : Instr} (h : rangeCondition s i) : exec i s = reject s .errRange := by
  cases i <;> simp only [rangeCondition] at h
  case select ch step slot | isSel ch step slot =>
    cases hr : s.live.read ch step.toNat with
    | none => simp only [exec, execSelect, execIsSel, hr]
    | some m =>
      have hstep := (Memory.read_eq_some_iff.1 hr).1
      have hslot : nslots ≤ slot.toNat := h.resolve_left (Nat.not_le.2 hstep)
      simp only [exec, execSelect, execIsSel, hr, if_pos hslot]
  case noteIdx | wrStep | rdStep => simp only [exec, execNoteIdx, execWrStep, execRdStep, Memory.read_eq_none_iff.2 h]
  case grow | setVol => exact if_pos h

theorem exec_shrink_of_lt {s : State} {cnt : BitVec 16} (h : s.live.len < cnt.toNat) :
    exec (.shrink cnt) s = reject s .errShrink :=
  if_pos h

/-! ### Commands within their range (R90 to R99) -/

theorem Memory.exists_read_of_lt {m : Memory} (ch : Channel) {i : Nat} (h : i < m.len) : ∃ w, m.read ch i = some w :=
  ⟨_, Memory.read_eq_some_iff.2 ⟨h, rfl⟩⟩

section WithinTrack

variable {s : State} {ch : Channel} {step : BitVec 16} {m : StepWord}

theorem exec_select_of_read {slot : BitVec 4} (hr : s.live.read ch step.toNat = some m) (hs : slot.toNat < nslots) :
    exec (.select ch step slot) s =
      .next ((s.setLive (s.live.write ch step.toNat (toggleSlot m slot.toNat))).answer 0#32) := by
  simp only [exec, execSelect, hr, if_neg (Nat.not_le.2 hs)]

theorem exec_isSel_of_read {slot : BitVec 4} (hr : s.live.read ch step.toNat = some m) (hs : slot.toNat < nslots) :
    exec (.isSel ch step slot) s = .next (s.answer (if m = oneHot slot.toNat then 1#32 else 0#32)) := by
  simp only [exec, execIsSel, hr, if_neg (Nat.not_le.2 hs)]

theorem exec_noteIdx_of_read (hr : s.live.read ch step.toNat = some m) :
    exec (.noteIdx ch step) s = .next (s.answer (BitVec.ofInt 32 (noteIndex ch m))) := by
  simp only [exec, execNoteIdx, hr]

theorem exec_wrStep_of_lt (mask : BitVec 16) (h : step.toNat < s.live.len) :
    exec (.wrStep ch step mask) s = .next ((s.setLive (s.live.write ch step.toNat (mask &&& slotMask))).answer 0#32) := by
  obtain ⟨m, hr⟩ := Memory.exists_read_of_lt ch h
  simp only [exec, execWrStep, hr]

theorem exec_rdStep_of_read (hr : s.live.read ch step.toNat = some m) :
    exec (.rdStep ch step) s = .next (s.answer (m.setWidth 32)) := by
  simp only [exec, execRdStep, hr]

end WithinTrack

/-! ### The words of SELECT and ISSEL (R90, R91) -/

/-- After a toggle no bit but the slot's can be set, and that one is the opposite of what it was (R90). -/
theorem toggleSlot_getLsbD (m : StepWord) {k : Nat} (hk : k < 16) (b : Nat) :
    (toggleSlot m k).getLsbD b = (decide (k = b) && !m.getLsbD k) := by
  rw [toggleSlot_eq m hk]
  cases m.getLsbD k <;> simp [oneHot_getLsbD hk]

/-- Two toggles leave the second slot's bit alone, unless the second one takes back what the first one set (R90 (c)). -/
theorem toggleSlot_toggleSlot (m : StepWord) {i j : Nat} (hi : i < 16) (hj : j < 16) :
    toggleSlot (toggleSlot m i) j = if i = j ∧ m.getLsbD i = false then 0#16 else oneHot j := by
  rw [toggleSlot_eq _ hj, toggleSlot_getLsbD m hi]
  simp

theorem runAll_pair_of_next {i j : Instr} {s u : State} (h : exec i s = .next u) : runAll [i, j] s = exec j u := by
  simp [h]

/-- Two SELECTs at one step toggle its word twice. -/
theorem runAll_select_select {s : State} {ch : Channel} {step : BitVec 16} {i j : BitVec 4} {m : StepWord} (hwf : s.live.wf)
    (hr : s.live.read ch step.toNat = some m) (hi : i.toNat < nslots) (hj : j.toNat < nslots) :
    ∃ t, runAll [.select ch step i, .select ch step j] s = .next t ∧
      t.live.read ch step.toNat = some (toggleSlot (toggleSlot m i.toNat) j.toNat) := by
  have hstep := (Memory.read_eq_some_iff.1 hr).1
  have hread := Memory.read_write_same hwf (ch := ch) hstep (toggleSlot m i.toNat)
  have hwf' := Memory.write_wf hwf ch hstep (toggleSlot m i.toNat)
  exact ⟨_, (runAll_pair_of_next (exec_select_of_read hr hi)).trans (exec_select_of_read hread hj),
    Memory.read_write_same hwf' hstep _⟩

/-- A word with two bits set is no one-hot word (R91). -/
theorem ne_oneHot_of_two_bits {m : StepWord} {i j k : Nat} (hij : i ≠ j) (hi : m.getLsbD i = true) (hj : m.getLsbD j = true)
    (hk : k < 16) : m ≠ oneHot k := by
  rintro rfl
  rw [oneHot_getLsbD hk, decide_eq_true_iff] at hi hj
  exact hij (hi.symm.trans hj)

/-! ### The answer of NOTEIDX (R92) -/

/-- A note fits the 32 bits of a response: `NOTE_BASE[ch] + 15 < 2^31` (R14). -/
theorem noteIndex_toNat_of_lowest (ch : Channel) {m : StepWord} {j : Nat} (h : m.getLsbD j = true)
    (hlow : ∀ k, k < j → m.getLsbD k = false) :
    (BitVec.ofInt 32 (noteIndex ch m)).toNat = (Config.noteBase ch.num).val + j := by
  have hbase := (Config.noteBase ch.num).isLt
  have hbit := bit_lt_of_getLsbD h
  rw [noteIndex_of_lowest ch h hlow, BitVec.toNat_ofInt]
  omega

/-! ### Words of a longer and of a shorter track (R94, R95) -/

section Resized

variable {m : Memory} {i k : Nat}

theorem Memory.read_grow_of_lt (h : m.wf) (ch : Channel) (hk : m.len + k ≤ lMax) (hi : i < m.len) :
    (m.grow k).read ch i = m.read ch i := by
  rw [Memory.read_grow h ch i k hk, if_pos hi]

theorem Memory.read_grow_of_ge (h : m.wf) (ch : Channel) (hk : m.len + k ≤ lMax) (hi : m.len ≤ i) (hi' : i < m.len + k) :
    (m.grow k).read ch i = some 0#16 := by
  rw [Memory.read_grow h ch i k hk, if_neg (Nat.not_lt.2 hi), if_pos hi']

theorem Memory.read_shrink_of_lt (h : m.wf) (ch : Channel) (hi : i < m.len - k) : (m.shrink k).read ch i = m.read ch i := by
  rw [Memory.read_shrink h ch i k, if_pos hi]

end Resized

/-! ### The live track of a step (R100 (b)) -/

/-- A command leaves the live track as it is, or edits it. -/
theorem exec_command_live {i : Instr} {s t : State} (hi : i.isCommand = true) (h : exec i s = .next t) :
    t.live = s.live ∨ LiveEdit s.live i t.live := by
  rcases exec_command_cases hi h with ⟨-, -, st, v, rfl⟩ | ⟨m, e, rfl⟩ | ⟨b, -, rfl⟩ | ⟨v, -, -, rfl⟩ | ⟨m, -, rfl⟩ |
    ⟨-, -, rfl⟩ | ⟨-, rfl⟩ | ⟨-, htick⟩
  · exact .inl rfl
  · exact .inr e
  · exact .inl rfl
  · exact .inl rfl
  · exact .inl rfl
  · exact .inl rfl
  · exact .inl (by simp) -- PLAY
  · exact .inl (execTick_frame htick).live

/-- Every edit but a WRSTEP leaves at most one bit in a word: a SELECT leaves one bit or none, and the others only remove words. -/
theorem LiveEdit.exclusive {m m' : Memory} {i : Instr} (e : LiveEdit m i m') (hi : ∀ ch step mask, i ≠ .wrStep ch step mask)
    (h : m.exclusive) : m'.exclusive := by
  cases e with
  | toggle ch step slot w hw hs =>
    exact Memory.forall_write (p := fun w => popcount w ≤ 1) h (popcount_toggleSlot w slot.isLt)
  | store ch step mask hs => exact absurd rfl (hi ch step mask)
  | grow cnt hc => exact Memory.forall_grow (p := fun w => popcount w ≤ 1) h
  | shrink cnt hc => exact Memory.forall_shrink (p := fun w => popcount w ≤ 1) h
  | new => exact Memory.forall_empty (p := fun w => popcount w ≤ 1)

theorem exec_command_keeps_exclusive {i : Instr} {s t : State} (hi : i.isCommand = true)
    (hw : ∀ ch step mask, i ≠ .wrStep ch step mask) (hs : s.live.exclusive) (h : exec i s = .next t) : t.live.exclusive := by
  rcases exec_command_live hi h with e | e
  · rw [e]; exact hs
  · exact e.exclusive hw hs

end Sys2Proof.Machine

namespace Sys2Proof.Claims

open Sys2Proof.Machine

/-- Settles O10: the word SELECT writes is the toggled one, and a write changes one word. -/
theorem selectTogglesExclusively : Obligations.SelectTogglesExclusively := by
  intro s ch step slot hwf
  refine ⟨fun ⟨hstep, hslot⟩ => ?_, exec_of_rangeCondition (i := .select ch step slot)⟩
  obtain ⟨m, hr⟩ := Memory.exists_read_of_lt ch hstep
  refine ⟨m, _, hr, exec_select_of_read hr hslot, rfl, ?_, fun ch' i hne => ?_⟩
  · rw [← oneHot, ← toggleSlot_eq m slot.isLt]
    exact Memory.read_write_same hwf hstep _
  · exact Memory.read_write_other hwf hstep _ (not_and_or.2 hne)

/-- Settles O11, from the word that two toggles leave. -/
theorem selectTwiceAndSelectOther : Obligations.SelectTwiceAndSelectOther := by
  intro s ch step i j m hwf hr hi hj
  have twice := toggleSlot_toggleSlot m i.isLt i.isLt
  obtain ⟨t, hrun, hread⟩ := runAll_select_select hwf hr hi hi
  refine ⟨fun hij => ?_, fun hm => ⟨t, hrun, ?_⟩, fun hclear => ⟨t, hrun, ?_⟩⟩
  · have hne : i.toNat ≠ j.toNat := fun e => hij (BitVec.eq_of_toNat_eq e)
    obtain ⟨u, hrun', hread'⟩ := runAll_select_select hwf hr hi hj
    exact ⟨u, hrun', by rw [hread', toggleSlot_toggleSlot m i.isLt j.isLt, if_neg (fun h => hne h.1), oneHot]⟩
  · rw [hread, twice]
    rcases hm with rfl | rfl
    · simp
    · have hset : (oneHot i.toNat).getLsbD i.toNat = true := by simp [oneHot_getLsbD i.isLt]
      rw [← oneHot, if_neg (by simp [hset])]
  · rw [hread, twice, if_pos ⟨rfl, hclear⟩]

/-- Settles O12: ISSEL compares the word with a one-hot one. -/
theorem isSelTestsEquality : Obligations.IsSelTestsEquality := by
  intro s ch step slot
  refine ⟨fun ⟨hstep, hslot⟩ => ?_, exec_of_rangeCondition (i := .isSel ch step slot), fun m i j hr hij hi hj hslot => ?_⟩
  · obtain ⟨m, hr⟩ := Memory.exists_read_of_lt ch hstep
    exact ⟨m, hr, exec_isSel_of_read hr hslot⟩
  · rw [exec_isSel_of_read hr hslot, if_neg (ne_oneHot_of_two_bits hij hi hj slot.isLt)]
    rfl

/-- Settles O13: the answer is the note of the word, in 32 bits. -/
theorem noteIdxAnswersLowestSlot : Obligations.NoteIdxAnswersLowestSlot := by
  intro s ch step
  refine ⟨fun hstep => ?_, exec_of_rangeCondition (i := .noteIdx ch step)⟩
  obtain ⟨m, hr⟩ := Memory.exists_read_of_lt ch hstep
  refine ⟨m, _, hr, exec_noteIdx_of_read hr, ?_, fun j ⟨hj, hlow⟩ => noteIndex_toNat_of_lowest ch hj hlow⟩
  rintro rfl
  rfl

/-- Settles O14, from what reads after a growth. -/
theorem growAppendsEmptySteps : Obligations.GrowAppendsEmptySteps := by
  intro s cnt hwf
  refine ⟨fun hmax => ?_, exec_of_rangeCondition (i := .grow cnt)⟩
  exact ⟨_, exec_grow_of_le hmax, rfl, fun ch _ => Memory.read_grow_of_lt hwf ch hmax,
    fun ch _ => Memory.read_grow_of_ge hwf ch hmax⟩

/-- Settles O15: what reads after a truncation, and after the growth that follows it. -/
theorem shrinkRemovesLastSteps : Obligations.ShrinkRemovesLastSteps := by
  intro s cnt hwf
  refine ⟨fun hcnt => ?_, exec_shrink_of_lt, fun ch i hcnt hlow hi => ?_⟩
  · exact ⟨_, exec_shrink_of_le hcnt, rfl, fun ch _ => Memory.read_shrink_of_lt hwf ch, fun _ _ hi => Memory.read_eq_none_iff.2 hi⟩
  · have hback : (s.live.shrink cnt.toNat).len + cnt.toNat = s.live.len := Nat.sub_add_cancel hcnt
    have hmax : (s.live.shrink cnt.toNat).len + cnt.toNat ≤ lMax := hback.trans_le hwf.1
    exact ⟨_, (runAll_pair_of_next (exec_shrink_of_le hcnt)).trans (exec_grow_of_le hmax), hback,
      Memory.read_grow_of_ge (Memory.shrink_wf hwf _) ch hmax hlow (hi.trans_eq hback.symm)⟩

/-- Settles O18: the word stored is the mask's slot bits, and a write changes one word. -/
theorem wrStepStoresSlotBits : Obligations.WrStepStoresSlotBits := by
  intro s ch step mask hwf
  refine ⟨fun hstep => ?_, exec_of_rangeCondition (i := .wrStep ch step mask)⟩
  refine ⟨_, _, exec_wrStep_of_lt mask hstep, rfl, Memory.read_write_same hwf hstep _, fun b => ?_, fun ch' i hne => ?_⟩
  · rw [BitVec.getLsbD_and, slotMask_getLsbD]
  · exact Memory.read_write_other hwf hstep _ (not_and_or.2 hne)

/-- Settles O56, by the event the step takes: RESET empties the track, and a command that is no WRSTEP keeps the property. -/
theorem exclusivityKeptWithoutWrStep : Obligations.ExclusivityKeptWithoutWrStep := by
  refine ⟨Memory.forall_empty (p := fun w => popcount w ≤ 1), fun s t hs hw h => ?_⟩
  rcases step_cases s with ⟨-, e⟩ | ⟨rest, -, e⟩ | ⟨cw, rest, i, hin, hd, e⟩ | ⟨cw, rest, err, -, -, e⟩ <;> rw [e] at h
  · cases h; exact hs
  · cases h; exact Memory.forall_empty (p := fun w => popcount w ≤ 1)
  · have hi : ∀ ch step mask, i ≠ .wrStep ch step mask := by
      rintro ch step mask rfl
      exact hw ⟨cw, rest, ch, step, mask, hin, hd⟩
    exact exec_command_keeps_exclusive (s := s.withInbox rest) (decode_isCommand hd) hi hs h
  · cases h; exact hs

/-- Settles O16: `LEN` is at most `LMAX`, which 32 bits hold. -/
theorem getLenAnswersLength : Obligations.GetLenAnswersLength := by
  intro s hwf
  have hlen : s.live.len ≤ 65535 := hwf.1
  exact ⟨_, rfl, Nat.mod_eq_of_lt (by omega)⟩

/-- Settles O17: the new track is the empty memory, in which no word exists. -/
theorem newTrackEmptiesOnlyTheTrack : Obligations.NewTrackEmptiesOnlyTheTrack := fun _ => ⟨_, rfl, rfl, Memory.read_empty⟩

/-- Settles O19: 16 bits widened to 32 keep their value. -/
theorem rdStepAnswersWord : Obligations.RdStepAnswersWord := by
  intro s ch step
  refine ⟨fun hstep => ?_, exec_of_rangeCondition (i := .rdStep ch step)⟩
  obtain ⟨m, hr⟩ := Memory.exists_read_of_lt ch hstep
  exact ⟨m, _, hr, exec_rdStep_of_read hr, BitVec.toNat_setWidth_of_le (by decide)⟩

end Sys2Proof.Claims
end

section
/-! PROOFS. The frequency formulas (41_freq_lut.md): the quotient of FREQ.HW; the growth of `etFreq`, from law (e) and the real
semitone `2^(1/12)`; the two frequency stages. -/

namespace Sys2Proof.Machine

/-! ### The stages -/

theorem exec_freqHw (ch : Channel) (s : State) :
    exec (.freqHw ch) s = .next { s with dp := { s.dp with freq := s.dp.freq.set ch (freqHw (s.dp.note.get ch)) } } := rfl

theorem exec_freqEt (ch : Channel) (s : State) :
    exec (.freqEt ch) s = .next { s with dp := { s.dp with freq := s.dp.freq.set ch (etFreq (s.dp.note.get ch)) } } := rfl

/-! ### The quotient of the clock (R112) -/

theorem freqHw_mul_divisor {j : Nat} (h : j < 80) : freqHw (j : Int) * (16 * ((period j : V) + 1)) = 1789773 := by
  rw [freqHw_of_lt h]
  exact div_mul_cancel₀ _ (by positivity)

theorem period_zero : period 0 = 2033 := rfl

/-- The document's own entry, in lowest terms (R28). -/
theorem freqHw_zero : freqHw 0 = 596591 / 10848 := by
  have h := freqHw_of_lt (j := 0) (by decide)
  rw [period_zero] at h
  exact h.trans (by norm_num)

/-! ### The laws of `etFreq` (R111) -/

theorem etFreq_a4 : etFreq 69 = 440 := by
  simp [etFreq, pow2_eq_zpow, etOctave_zero]

/-- The real frequency that law (e) speaks of exists for every note. -/
theorem exists_equalTempered (note : Int) : ∃ r : ℝ, 0 < r ∧ r ^ 12 = 440 ^ 12 * 2 ^ (note - 69) := by
  have hpos : (0 : ℝ) < 440 ^ 12 * 2 ^ (note - 69) := by positivity
  exact ⟨_, Real.rpow_pos_of_pos hpos _, Real.rpow_inv_natCast_pow hpos.le (by decide)⟩

/-- A semitone is more than 5 per cent: `1.05^12 < 2`. -/
theorem semitone_lt {r r' : ℝ} (hr : 0 < r) (hr' : 0 < r') (h : r' ^ 12 = 2 * r ^ 12) : 21 / 20 * r < r' := by
  refine lt_of_pow_lt_pow_left₀ 12 hr'.le ?_
  calc (21 / 20 * r) ^ 12 = (21 / 20) ^ 12 * r ^ 12 := mul_pow _ _ _
    _ < 2 * r ^ 12 := mul_lt_mul_of_pos_right (by norm_num) (pow_pos hr 12)
    _ = r' ^ 12 := h.symm

/-- The relative error of law (e) is far below the semitone between two neighbouring notes. -/
theorem etFreq_lt_succ (note : Int) : etFreq note < etFreq (note + 1) := by
  obtain ⟨r, hr, e⟩ := exists_equalTempered note
  obtain ⟨r', hr', e'⟩ := exists_equalTempered (note + 1)
  have hstep : 21 / 20 * r < r' := by
    refine semitone_lt hr hr' ?_
    rw [e', e, add_sub_right_comm, zpow_add_one₀ two_ne_zero]
    ring
  have hupper := (abs_le.1 (etFreq_near hr e)).2
  have hlower := (abs_le.1 (etFreq_near hr' e')).1
  have hreal : ((etFreq note : V) : ℝ) < (etFreq (note + 1) : V) := by linarith
  exact_mod_cast hreal

theorem etFreq_strictMono : StrictMono etFreq := strictMono_int_of_lt_succ etFreq_lt_succ

end Sys2Proof.Machine

namespace Sys2Proof.Claims

open Sys2Proof.Machine

/-- Settles O37: the stage's frequency is `freqHw` of the note. -/
theorem freqHwDividesClock : Obligations.FreqHwDividesClock := by
  refine fun s ch => ⟨_, exec_freqHw ch s, freqHw_of_out, fun j hj hnote => ?_, fun hnote => ?_⟩
  · rw [hnote, freqHw_mul_divisor hj]
  · rw [hnote, freqHw_zero]

/-- Settles O39: the octave and the error are laws of the construction; the growth follows from the error, semitone by semitone. -/
theorem etFreqObeysItsLaws : Obligations.EtFreqObeysItsLaws :=
  ⟨etFreq_a4, etFreq_octave, etFreq_pos, fun _ _ h => etFreq_strictMono h, fun _ _ => etFreq_near⟩

/-- Settles O38: the stage's frequency is `etFreq` of the note. -/
theorem freqEtIsEqualTempered : Obligations.FreqEtIsEqualTempered :=
  fun s ch => ⟨exec_freqEt ch s, etFreq_pos _, fun hnote => by rw [hnote, etFreq_a4]⟩

end Sys2Proof.Claims
end

section
/-! PROOFS. Sequencing and the generators (42_oscillators.md): what each of the stages STEPIDX, NOTE, PULSE.A, PULSE.B, TRI and NOISE
leaves in the datapath; the two halves of a pulse's period; the triangle's window; the first sample of a legacy render. -/

namespace Sys2Proof.Machine

/-! ### The stages -/

theorem exec_stepIdx (s : State) :
    exec .stepIdx s = .next { s with dp := { s.dp with step := stepIndex s.n s.sTempo.toNat s.snap.len } } := rfl

theorem exec_pulseA (s : State) :
    exec .pulseA s = .next { s with dp := { s.dp with p1 := pulseUnit s.n s.dp.note.pulseA s.dp.freq.pulseA } } := rfl

theorem exec_pulseB (s : State) :
    exec .pulseB s = .next { s with dp := { s.dp with p2 := pulseUnit s.n s.dp.note.pulseB s.dp.freq.pulseB } } := rfl

theorem exec_noise (s : State) : exec .noise s = .next { s with
    dp := { s.dp with nz := tickNoise s.dp.note.noise s.free },
    free := if activeNoise s.dp.note.noise then s.free + 1 else s.free } :=
  congrArg Host.Outcome.next (noiseStage_eq s)

section Stages

variable {s : State} {ch : Channel} {m : StepWord} {g : GenOut}

theorem exec_note_of_read (h : snapWord s.snap ch s.dp.step = some m) :
    exec (.note ch) s = .next { s with dp := { s.dp with note := s.dp.note.set ch (noteIndex ch m) } } :=
  noteStage_some h

theorem exec_note_of_no_word (h : ¬ (0 ≤ s.dp.step ∧ s.dp.step.toNat < s.snap.len)) : exec (.note ch) s = .fault .noSuchStep :=
  noteStage_none (snapWord_eq_none h)

theorem exec_tri_of_output (h : triangle s.n s.dp.note.triangle s.dp.freq.triangle (triLegacyBit s.sMode) = some g) :
    exec .tri s = .next { s with dp := { s.dp with t := g } } := by
  simp only [exec, execTri, triStage, h, State.setDp]

theorem exec_tri_of_no_output (h : triangle s.n s.dp.note.triangle s.dp.freq.triangle (triLegacyBit s.sMode) = none) :
    exec .tri s = .refused .legacyTriangleNegativeIndex := by
  simp only [exec, execTri, triStage, h]

theorem exec_noise_of_no_note (h : s.dp.note.noise = -1) : exec .noise s = .next { s with dp := { s.dp with nz := .silent } } := by
  have hoff : activeNoise s.dp.note.noise = false := by simp [activeNoise, h]
  simp [exec_noise, tickNoise, hoff]

theorem exec_noise_of_note (h : s.dp.note.noise ≠ -1) :
    exec .noise s = .next { s with dp := { s.dp with nz := .level (Config.draw s.free) }, free := s.free + 1 } := by
  have hon := (activeNoise_eq_true _).2 h
  simp [exec_noise, tickNoise, hon]

end Stages

/-! ### The note of a word (R78, R121) -/

open Sys2Proof.Claims in
theorem noteOfWord_noteIndex (ch : Channel) (m : StepWord) : noteOfWord ch m (noteIndex ch m) :=
  ⟨(noteIndex_eq_neg_one_iff ch m).2, fun _ ⟨hj, hlow⟩ => noteIndex_of_lowest ch hj hlow⟩

/-! ### A pulse unit (R122 to R125) -/

section PulseUnit

variable {n : Nat} {note : Int} {f : V}

theorem pulseUnit_of_silent (h : note = -1 ∨ f ≤ 0) : pulseUnit n note f = 0 :=
  pulseUnit_inactive fun ⟨hnote, hf⟩ => h.elim hnote hf.not_ge

theorem pulseUnit_eq_zero_iff (hnote : note ≠ -1) (hf : 0 < f) (u : V) (hu : u = (n : V) * f / 48000) :
    pulseUnit n note f = 0 ↔ ∃ w : Int, (w : V) ≤ u ∧ u < w + 1 / 2 := by
  rw [pulseUnit_active ⟨hnote, hf⟩, pulse_eq_zero_iff n f u hu]

end PulseUnit

/-! ### The triangle (R126) -/

/-- At the start of a render the window is at its start (V48). -/
theorem triIndex_zero (f : V) : triIndex 0 f = -15 := by
  rw [triIndex_eq, Nat.cast_zero, zero_mul, zero_div]
  decide +kernel

/-- An equal-tempered note is audible at every pitch, so the legacy triangle has no output for the first sample (V48). -/
theorem triangle_first_legacy_et {note : Int} {mode : BitVec 2} (hnote : note ≠ -1) (het : mode.getLsbD 0 = true) :
    triangle 0 note (tickFreq mode note) true = none := by
  have hfreq : tickFreq mode note = etFreq note := by rw [tickFreq_of_note mode hnote, if_pos het]; rfl
  rw [triangle_eq_none_iff, hfreq, triIndex_zero]
  exact ⟨rfl, ⟨hnote, etFreq_pos note⟩, by decide⟩

theorem stepIndex_zero {tempo len : Nat} (h : 0 < len) : stepIndex 0 tempo len = 0 := by
  rw [stepIndex_of_pos h]; simp

end Sys2Proof.Machine

namespace Sys2Proof.Claims

open Sys2Proof.Machine

/-- Settles O29: the word read is that of step 0, and its triangle has no output. -/
theorem legacyTriangleRefusedAtFirstSample : Obligations.LegacyTriangleRefusedAtFirstSample := by
  intro s m hs hrun hcancel hn hend hlegacy het hread hm
  have hlt : s.n < s.nEnd := hn ▸ hend
  have hover : s.renderOver = false := by simp [State.renderOver, hcancel, hlt]
  have hstep : stepIndex s.n s.sTempo.toNat s.snap.len = 0 := by rw [hn, stepIndex_zero (hs.steps hlt)]
  have hword : snapWord s.snap .triangle (stepIndex s.n s.sTempo.toNat s.snap.len) = some m := by
    rw [hstep, snapWord_of_nonneg le_rfl]; exact hread
  refine execTick_of_sample_refused hrun hover hword ?_
  rw [hn, show triLegacyBit s.sMode = true from hlegacy]
  exact triangle_first_legacy_et (mt (noteIndex_eq_neg_one_iff _ m).1 hm) het

/-- Settles O36: an index in range names a word, whose note is `noteIndex`. -/
theorem noteDecodesSnapshotWord : Obligations.NoteDecodesSnapshotWord := by
  refine fun s ch => ⟨fun hi => ?_, exec_note_of_no_word⟩
  obtain ⟨m, hm⟩ := snapWord_eq_some (ch := ch) hi
  exact ⟨m, _, (snapWord_of_nonneg hi.1).symm.trans hm, noteOfWord_noteIndex ch m, exec_note_of_read hm⟩

/-- Settles O40: both units are `pulseUnit`, each at its own channel's note and frequency. -/
theorem pulseUnitsAreHalfDutySquares : Obligations.PulseUnitsAreHalfDutySquares := fun s =>
  ⟨⟨_, exec_pulseA s, pulseUnit_of_silent, pulseUnit_eq_zero_iff⟩, ⟨_, exec_pulseB s, pulseUnit_of_silent, pulseUnit_eq_zero_iff⟩⟩

/-- Settles O41, by the output of the triangle in each of the four cases. -/
theorem triReadsLevelTable : Obligations.TriReadsLevelTable := by
  intro s k active
  refine ⟨fun hoff => ?_, fun hon hmode => ?_, fun hon hmode hk => ?_, fun hon hmode hk => ?_⟩
  · exact exec_tri_of_output (triangle_inactive _ hoff)
  · obtain ⟨e, hval, hout⟩ := triangle_folded (n := s.n) hon
    exact ⟨e, hval, exec_tri_of_output ((congrArg _ hmode).trans hout)⟩
  · obtain ⟨e, hval, hout⟩ := triangle_legacy hon hk
    exact ⟨e, hval, exec_tri_of_output ((congrArg _ hmode).trans hout)⟩
  · exact exec_tri_of_no_output (triangle_eq_none_iff.2 ⟨hmode, hon, hk⟩)

/-- Settles O42: the window that holds sample `n` is the floor of `n * f / 48000`, and the index rounds the position in it. -/
theorem triIndexRoundsHalfAwayFromZero : Obligations.TriIndexRoundsHalfAwayFromZero := by
  intro n f _
  obtain ⟨hlow, hhigh⟩ := triIndex_bounds n f
  obtain ⟨hnear, htie⟩ := roundV_spec (30 * frac ((n : V) * f / 48000) - 15)
  rw [← triIndex_eq] at hnear htie
  exact ⟨_, _, Rat.floor_le _, sub_lt_iff_lt_add.1 Rat.lt_floor, rfl, hlow, hhigh, hnear, htie⟩

/-- Settles O34: with a step in the snapshot the clamp has a non-empty range. -/
theorem stepIdxIsClampedFloor : Obligations.StepIdxIsClampedFloor := by
  intro s hlen
  rw [exec_stepIdx, stepIndex_of_pos hlen]

/-- Settles O43: the draw is the free value that the counter names. -/
theorem noiseDrawsOncePerActiveSample : Obligations.NoiseDrawsOncePerActiveSample := fun _ =>
  ⟨exec_noise_of_no_note, fun hnote => ⟨_, exec_noise_of_note hnote⟩⟩

end Sys2Proof.Claims
end

section
/-! PROOFS. The mixer and the filter chain (43_mixer_filters.md): what each of the stages MIX.PULSE, MIX.TND, MIX.SUM, HPF.A, HPF.B and
LPF leaves in the state; how far the output of a filter of each form can lie from its input; the bounds on the filter registers
along a run, and on the samples. -/

namespace Sys2Proof.Machine

/-! ### The stages -/

theorem exec_mixPulse (s : State) :
    exec .mixPulse s = .next { s with dp := { s.dp with pulseOut := mixPulse s.dp.p1 s.dp.p2 } } := rfl

theorem exec_mixTnd (s : State) : exec .mixTnd s = .next { s with dp := { s.dp with tndOut := mixTnd s.dp.t s.dp.nz } } := rfl

theorem exec_mixSum (s : State) :
    exec .mixSum s = .next { s with dp := { s.dp with mixed := s.dp.pulseOut + s.dp.tndOut } } := rfl

theorem exec_hpfA (s : State) : exec .hpfA s = .next { s with
    hpa := ⟨s.dp.mixed, highPass s.hpa k1 s.dp.mixed⟩, dp := { s.dp with y1 := highPass s.hpa k1 s.dp.mixed } } := rfl

theorem exec_hpfB (s : State) : exec .hpfB s = .next { s with
    hpb := ⟨s.dp.y1, highPass s.hpb k2 s.dp.y1⟩, dp := { s.dp with y2 := highPass s.hpb k2 s.dp.y1 } } := rfl

theorem exec_lpf (s : State) : exec .lpf s = .next { s with
    lp := ⟨s.dp.y2, lowPass s.lp s.dp.y2⟩, dp := { s.dp with y3 := lowPass s.lp s.dp.y2 } } := rfl

/-- The three mixer stages together (R142). -/
theorem runAll_mixer (s : State) : runAll [.mixPulse, .mixTnd, .mixSum] s = .next { s with dp := { s.dp with
    pulseOut := mixPulse s.dp.p1 s.dp.p2
    tndOut := mixTnd s.dp.t s.dp.nz
    mixed := mixPulse s.dp.p1 s.dp.p2 + mixTnd s.dp.t s.dp.nz } } := rfl

/-! ### The mixer (R140 to R142) -/

theorem mixPulse_zero_zero : mixPulse 0 0 = 0 := rfl

theorem mixPulse_one_one : mixPulse 1 1 = 799 / 34700 := by norm_num [mixPulse]

theorem mixPulse_of_ne {p q : Fin 2} (h : p ≠ q) : mixPulse p q = 141 / 12100 := by
  have hsum : p.val + q.val = 1 := by omega
  norm_num [mixPulse, hsum]

theorem mixTnd_silent_silent : mixTnd .silent .silent = 0 := by simp [mixTnd_eq, GenOut.toV]

/-- With a unit that is not silent the formula of R141 applies. -/
theorem mixTnd_of_not_silent {a b : GenOut} (h : ¬ (a = .silent ∧ b = .silent)) :
    mixTnd a b = (15979 / 100) / (1 / (a.toV / 8227 + b.toV / 12241) + 100) := by
  obtain ⟨hsum, -⟩ := tnd_divisors a (mem_allOutputs a) b (mem_allOutputs b) h
  rw [mixTnd_eq, if_neg hsum]

/-- The range of R142, rounded outwards to four decimals. -/
theorem mixSum_bounds (p q : Fin 2) (a b : GenOut) : -332 / 10000 ≤ mixSum (mixPulse p q) (mixTnd a b) ∧
    mixSum (mixPulse p q) (mixTnd a b) ≤ 549 / 10000 := by
  obtain ⟨hlow, hhigh⟩ := mixed_range a (mem_allOutputs a) b (mem_allOutputs b) p q
  unfold mixSum
  constructor <;> linarith

/-! ### What a filter and the gain do to bounds (R144, R147, R166) -/

/-- The difference of a high-pass stage's registers is a mean of the old difference and the negated old input, weighted by `k`. -/
theorem highPass_sub_input (f : Filter) (k x : V) :
    highPass f k x - x = k * (f.prevOut - f.prevIn) + (1 - k) * -f.prevIn := by
  unfold highPass; ring

/-- An interval that holds `prevOut - prevIn` and the mirrored input of a high-pass stage holds the next difference too. -/
theorem highPass_sub_input_mem {f : Filter} {k lo hi : V} (hk0 : 0 ≤ k) (hk1 : k ≤ 1) (hin : -f.prevIn ∈ Set.Icc lo hi)
    (hdiff : f.prevOut - f.prevIn ∈ Set.Icc lo hi) (x : V) : highPass f k x - x ∈ Set.Icc lo hi := by
  rw [highPass_sub_input]
  exact convex_Icc lo hi hdiff hin hk0 (sub_nonneg.2 hk1) (add_sub_cancel k 1)

/-- `(0.1762 + 0.78) * 0.815686 < 0.78`. -/
theorem lowPass_mem {f : Filter} {x : V} (hx : x ∈ Set.Icc (-1762 / 10000) (1762 / 10000))
    (hout : f.prevOut ∈ Set.Icc (-78 / 100) (78 / 100)) : lowPass f x ∈ Set.Icc (-78 / 100) (78 / 100) := by
  obtain ⟨hxlow, hxhigh⟩ := hx
  obtain ⟨holow, hohigh⟩ := hout
  unfold lowPass kLp
  constructor <;> linarith

/-- A volume of at most 100 per cent does not amplify (R166). -/
theorem abs_gain_le {volume : BitVec 7} (hv : volume.toNat ≤ 100) (y : V) : |gain y volume| ≤ |y| := by
  have hv' : (volume.toNat : V) ≤ 100 := by exact_mod_cast hv
  calc |gain y volume| = |y| * ((volume.toNat : V) / 100) := by
        rw [gain, mul_div_assoc, abs_mul, abs_of_nonneg (a := (volume.toNat : V) / 100) (by positivity)]
    _ ≤ |y| := mul_le_of_le_one_right (abs_nonneg y) (by linarith)

/-! ### The bounds on the filter registers (R149) -/

namespace State.FiltersBounded

variable {s t : State}

theorem of_zero (ha : s.hpa = Filter.zero) (hb : s.hpb = Filter.zero) (hl : s.lp = Filter.zero) : s.FiltersBounded := by
  constructor <;> simp only [ha, hb, hl, Filter.zero] <;> norm_num

/-- The bounds speak of the filter registers only. -/
theorem of_same_filters (hs : s.FiltersBounded) (h : (t.hpa, t.hpb, t.lp) = (s.hpa, s.hpb, s.lp)) : t.FiltersBounded := by
  obtain ⟨ha, hb, hl⟩ : t.hpa = s.hpa ∧ t.hpb = s.hpb ∧ t.lp = s.lp := by simpa using h
  obtain ⟨aInLow, aInHigh, aLow, aHigh, linkAB, bLow, bHigh, linkBL, lLow, lHigh⟩ := hs
  constructor <;> simpa only [ha, hb, hl]

/-- `y1 - mixed` of the next sample (R145). -/
theorem hpa_step (hs : s.FiltersBounded) (x : V) : highPass s.hpa k1 x - x ∈ Set.Icc (-549 / 10000) (332 / 10000) :=
  have hin : -s.hpa.prevIn ∈ Set.Icc (-549 / 10000) (332 / 10000) := ⟨by linarith [hs.aInHigh], by linarith [hs.aInLow]⟩
  highPass_sub_input_mem (by norm_num [k1]) (by norm_num [k1]) hin ⟨hs.aLow, hs.aHigh⟩ x

/-- `y2 - y1` of the next sample: the input register of high-pass B is the output register of high-pass A (R146, R148). -/
theorem hpb_step (hs : s.FiltersBounded) (x : V) : highPass s.hpb k2 x - x ∈ Set.Icc (-881 / 10000) (881 / 10000) :=
  have hin : -s.hpb.prevIn ∈ Set.Icc (-881 / 10000) (881 / 10000) := by
    rw [hs.linkAB]
    exact ⟨by linarith [hs.aInHigh, hs.aHigh], by linarith [hs.aInLow, hs.aLow]⟩
  highPass_sub_input_mem (by norm_num [k2]) (by norm_num [k2]) hin ⟨hs.bLow, hs.bHigh⟩ x

/-- One sample keeps the bounds: the mixer's range enters the chain, and each stage passes its own on to the next (R142, R148). -/
theorem afterSample (hs : s.FiltersBounded) (wA wB wT wN : StepWord) (g : GenOut) :
    (tickResult s (tickDatapath s wA wB wT wN g)).FiltersBounded := by
  set d := tickDatapath s wA wB wT wN g
  have hmixed : -332 / 10000 ≤ d.mixed ∧ d.mixed ≤ 549 / 10000 := mixSum_bounds d.p1 d.p2 d.t d.nz
  have hy1 : d.y1 - d.mixed ∈ Set.Icc (-549 / 10000) (332 / 10000) := hs.hpa_step d.mixed
  have hy2 : d.y2 - d.y1 ∈ Set.Icc (-881 / 10000) (881 / 10000) := hs.hpb_step d.y1
  have hy2_range : d.y2 ∈ Set.Icc (-1762 / 10000) (1762 / 10000) :=
    ⟨by linarith [hmixed.1, hy1.1, hy2.1], by linarith [hmixed.2, hy1.2, hy2.2]⟩
  have hy3 : d.y3 ∈ Set.Icc (-78 / 100) (78 / 100) := lowPass_mem hy2_range ⟨hs.lLow, hs.lHigh⟩
  exact ⟨hmixed.1, hmixed.2, hy1.1, hy1.2, rfl, hy2.1, hy2.2, rfl, hy3.1, hy3.2⟩

end State.FiltersBounded

/-! ### The bounds along a run -/

/-- A TICK that goes on leaves the filters as they are and answers no sample, or it delivers the sample of the stages (R165). -/
theorem execTick_next_sample {s t : State} (h : execTick s = .next t) :
    ((t.hpa, t.hpb, t.lp) = (s.hpa, s.hpb, s.lp) ∧ t.resp = some ⟨.endOfRender, .sample 0⟩) ∨
      ∃ wA wB wT wN g, t = tickResult s (tickDatapath s wA wB wT wN g) := by
  rcases execTick_cases s with ⟨-, e⟩ | ⟨-, -, e⟩ | ⟨-, -, ⟨wA, wB, wT, wN, g, -, -, -, -, -, e⟩ | ⟨-, e⟩ | ⟨-, -, -, e⟩⟩ <;>
    rw [e] at h <;> cases h
  · exact .inl ⟨rfl, rfl⟩
  · exact .inl ⟨rfl, rfl⟩
  · exact .inr ⟨wA, wB, wT, wN, g, rfl⟩

theorem execTick_keeps_filtersBounded {s t : State} (hs : s.FiltersBounded) (h : execTick s = .next t) : t.FiltersBounded := by
  rcases execTick_next_sample h with ⟨hsame, -⟩ | ⟨wA, wB, wT, wN, g, rfl⟩
  · exact hs.of_same_filters hsame
  · exact hs.afterSample wA wB wT wN g

/-- PLAY starts the filters at 0 (R163). -/
theorem execPlay_filtersBounded {s t : State} (h : execPlay s = .next t) : t.FiltersBounded := by
  cases h; exact .of_zero rfl rfl rfl

end Sys2Proof.Machine

namespace Sys2Proof.Claims

open Sys2Proof.Machine

/-- By R20 only PLAY and TICK write the filter registers. -/
theorem exec_command_keeps_filtersBounded {i : Instr} {s t : State} (hi : i.isCommand = true) (hs : s.FiltersBounded)
    (h : exec i s = .next t) : t.FiltersBounded := by
  by_cases hsame : (t.hpa, t.hpb, t.lp) = (s.hpa, s.hpb, s.lp)
  · exact hs.of_same_filters hsame
  · obtain ⟨-, -, -, -, -, -, -, -, -, -, hwriter⟩ := stateWrittenOnlyByItsRow i s t hi h
    rcases hwriter hsame with rfl | rfl
    · exact execPlay_filtersBounded h
    · exact execTick_keeps_filtersBounded hs h

/-- Settles O57, by the event the step takes: RESET and PLAY set the registers to 0, a sample passes the bounds down the chain, and
nothing else writes a filter. -/
theorem stepKeepsFilterBounds : Obligations.StepKeepsFilterBounds := by
  refine ⟨.of_zero rfl rfl rfl, fun s t hs h => ?_⟩
  rcases step_cases s with ⟨-, e⟩ | ⟨rest, -, e⟩ | ⟨cw, rest, i, -, hd, e⟩ | ⟨cw, rest, err, -, -, e⟩ <;> rw [e] at h
  · cases h; exact hs
  · cases h; exact .of_zero rfl rfl rfl
  · exact exec_command_keeps_filtersBounded (decode_isCommand hd) (hs.of_same_filters (t := s.withInbox rest) rfl) h
  · cases h; exact hs.of_same_filters rfl

/-- Settles O45: each number of high pulses has its own value of `mixPulse`. -/
theorem mixPulseSaturates : Obligations.MixPulseSaturates := by
  refine fun s => ⟨_, exec_mixPulse s, ?_, mixPulse_of_ne, ?_⟩
  · rintro ⟨h1, h2⟩
    rw [h1, h2, mixPulse_zero_zero]
  · rintro ⟨h1, h2⟩
    rw [h1, h2, mixPulse_one_one]

/-- Settles O46: the divisors were enumerated over the units' outputs. -/
theorem mixTndSaturates : Obligations.MixTndSaturates := by
  refine fun s => ⟨_, exec_mixTnd s, ?_, fun h => ?_⟩
  · rintro ⟨ht, hnz⟩
    rw [ht, hnz, mixTnd_silent_silent]
  · obtain ⟨hsum, hdiv⟩ := tnd_divisors _ (mem_allOutputs s.dp.t) _ (mem_allOutputs s.dp.nz) h
    exact ⟨hsum, hdiv, mixTnd_of_not_silent h⟩

/-- Settles O47: the sum of the outputs of the two mixers, whose range was enumerated. -/
theorem mixSumAddsWithinRange : Obligations.MixSumAddsWithinRange := by
  refine fun s => ⟨exec_mixSum s, _, runAll_mixer s, ?_⟩
  obtain ⟨hlow, hhigh⟩ := mixed_range _ (mem_allOutputs s.dp.t) _ (mem_allOutputs s.dp.nz) s.dp.p1 s.dp.p2
  refine ⟨hlow, hhigh, fun h1 h2 ht hnz => ?_⟩
  simp only [h1, h2, ht, hnz, mixPulse_zero_zero, mixTnd_silent_silent, add_zero]

/-- Settles O58: the sample is the gain of the low-pass register, which is within 0.78 after the TICK. -/
theorem samplesStayWithinUnitRange : Obligations.SamplesStayWithinUnitRange := by
  intro s t x hs hv h hresp
  rcases execTick_next_sample h with ⟨-, hend⟩ | ⟨wA, wB, wT, wN, g, rfl⟩
  · rw [hend] at hresp; cases hresp
  · obtain rfl : gain (tickDatapath s wA wB wT wN g).y3 s.sVolume = x := by cases hresp; rfl
    have hbounded := hs.afterSample wA wB wT wN g
    have hy3 : |(tickDatapath s wA wB wT wN g).y3| ≤ 1 :=
      abs_le.2 ⟨le_trans (by norm_num) hbounded.lLow, le_trans hbounded.lHigh (by norm_num)⟩
    exact abs_le.1 ((abs_gain_le hv _).trans hy3)

/-- Settles O48: both stages are the one form of R144, each with its own coefficient and input. -/
theorem highPassStagesFollowTheForm : Obligations.HighPassStagesFollowTheForm := fun s =>
  ⟨⟨_, rfl, exec_hpfA s⟩, ⟨_, rfl, exec_hpfB s⟩⟩

/-- Settles O49: the stage's output is `lowPass`, which is R147's formula. -/
theorem lpfFollowsTheLetter : Obligations.LpfFollowsTheLetter := fun s => ⟨_, rfl, exec_lpf s⟩

end Sys2Proof.Claims
end

section
/-! PROOFS. The playback controller (44_playback.md): what the configuration commands, PLAY, STOP, TICK and GAIN leave in the state; the
stage values of a sample as the lines of TICK's pseudocode; a folded render TICK by TICK, from PLAY to END; which event moves `RUN`. -/

namespace Sys2Proof.Machine

/-! ### The commands, case by case (R161, R163, R164, R166) -/

theorem exec_setVol_of_le {s : State} {vol : BitVec 7} (h : vol.toNat ≤ 100) :
    exec (.setVol vol) s = .next (({ s with volume := vol } : State).answer 0#32) :=
  if_neg (Nat.not_lt.2 h)

theorem exec_gain (s : State) : exec .gain s = .next { s with dp := { s.dp with out := gain s.dp.y3 s.sVolume } } := rfl

theorem exec_stop_of_playing {s : State} (h : s.run = .playing) : exec .stop s = .next (s.raiseCancel.answer 0#32) := by
  simp only [exec, execStop, h]

theorem exec_stop_of_idle {s : State} (h : s.run = .idle) : exec .stop s = .next (s.answer 0#32) := by
  simp only [exec, execStop, h]

/-- PLAY writes the snapshot, the counter, the filters and the flags; of the flags before it only `CANCEL` of an Idle block
shows (R163). -/
theorem exec_play (s : State) : exec .play s = .next { s with
    snap := s.live, sTempo := s.tempo, sVolume := s.volume, sMode := s.mode,
    n := 0, nEnd := renderLength s.live.len s.tempo.toNat, hpa := Filter.zero, hpb := Filter.zero, lp := Filter.zero,
    run := .playing, cancel := s.cancel && decide (s.run = .idle), resp := some ⟨.ok, .word 0#32⟩ } := by
  simp only [exec, execPlay, State.endActiveRender_eq]
  rfl

/-- `CANCEL` is 0 after PLAY wherever `CANCEL = 1` implied Playing (R23, R163). -/
theorem cancel_and_idle_eq_false {s : State} (h : s.cancel = true → s.run = .playing) :
    (s.cancel && decide (s.run = .idle)) = false := by
  cases hc : s.cancel with
  | false => rfl
  | true => rw [h hc]; rfl

theorem State.renderOver_eq_true {s : State} : s.renderOver = true ↔ s.cancel = true ∨ s.nEnd ≤ s.n := by
  simp [State.renderOver]

/-! ### The stage values of one sample (R120 to R127, R140 to R147) -/

theorem pulseUnit_eq_ite (n : Nat) (note : Int) (f : V) :
    pulseUnit n note f = if note ≠ -1 ∧ 0 < f then pulse n f else 0 := by
  split
  · next h => exact pulseUnit_active h
  · next h => exact pulseUnit_inactive h

theorem tickNoise_of_no_note {note : Int} (h : note = -1) (k : Nat) : tickNoise note k = .silent :=
  if_neg (by simp [h])

theorem tickNoise_of_note {note : Int} (h : note ≠ -1) (k : Nat) : tickNoise note k = .level (Config.draw k) :=
  if_pos ((activeNoise_eq_true note).2 h)

section Triangle

variable {n : Nat} {note : Int} {f : V} {g : GenOut}

theorem toV_of_triangle_folded (h : triangle n note f false = some g) :
    g.toV = if note ≠ -1 ∧ 0 < f then -1 + 2 * ((triIndex n f).natAbs : V) / 15 else 0 := by
  split
  · next hon =>
    obtain ⟨e, he, hout⟩ := triangle_folded (n := n) hon
    obtain rfl := Option.some.inj (h.symm.trans hout)
    have hval : e.val = (triIndex n f).natAbs := by rw [Int.abs_eq_natAbs] at he; exact_mod_cast he
    rw [← hval]; rfl
  · next hoff =>
    obtain rfl := Option.some.inj (h.symm.trans (triangle_inactive _ hoff))
    rfl

theorem toV_of_triangle_legacy (h : triangle n note f true = some g) :
    g.toV = if note ≠ -1 ∧ 0 < f then -1 + 2 * (triIndex n f : V) / 15 else 0 := by
  split
  · next hon =>
    have hk : 0 ≤ triIndex n f := by
      by_contra hneg
      have hnone := triangle_eq_none_iff.2 ⟨rfl, hon, not_le.1 hneg⟩
      rw [hnone] at h; cases h
    obtain ⟨e, he, hout⟩ := triangle_legacy hon hk
    obtain rfl := Option.some.inj (h.symm.trans hout)
    rw [← he]; rfl
  · next hoff =>
    obtain rfl := Option.some.inj (h.symm.trans (triangle_inactive _ hoff))
    rfl

end Triangle

/-- A sample leaves a cleared datapath cleared, so `tickResult` writes the fields of R165 and no other. -/
theorem tickResult_eq {s : State} (h : s.dp = Datapath.cleared) (d : Datapath) : tickResult s d = { s with
    n := s.n + 1, hpa := ⟨d.mixed, d.y1⟩, hpb := ⟨d.y1, d.y2⟩, lp := ⟨d.y2, d.y3⟩,
    free := if d.note.noise = -1 then s.free else s.free + 1,
    resp := some ⟨.ok, .sample d.out⟩ } := by
  have hfree : (if activeNoise d.note.noise then s.free + 1 else s.free) = if d.note.noise = -1 then s.free else s.free + 1 := by
    simp only [activeNoise_eq_true, ne_eq, ite_not]
  rw [tickResult, hfree, ← h]

/-- With a defined triangle a TICK of a render in flight delivers (R165, R126). -/
theorem State.Inv.execTick_delivers {s : State} (hs : s.Inv) (hr : s.run = .playing) (hc : s.cancel = false) (hn : s.n < s.nEnd)
    (ht : s.sMode.getLsbD 1 = false ∨
      s.snap.read .triangle (min (s.n * s.sTempo.toNat / 2880000) (s.snap.len - 1)) = some 0#16) :
    ∃ d, execTick s = .next (tickResult s d) := by
  obtain ⟨wA, wB, wT, wN, -, -, hT, -, hnext, -⟩ := execTick_playing hs hr hc hn
  cases hg : triangle s.n (noteIndex .triangle wT) (tickFreq s.sMode (noteIndex .triangle wT)) (triLegacyBit s.sMode) with
  | some g => exact ⟨_, hnext g hg⟩
  | none =>
    obtain ⟨hlegacy, ⟨hnote, -⟩, -⟩ := triangle_eq_none_iff.1 hg
    rcases ht with hfolded | hzero
    · exact absurd (hlegacy.symm.trans hfolded) (by decide)
    · rw [stepIndex_of_pos (hs.steps hn), snapWord_of_nonneg (Int.natCast_nonneg _), Int.toNat_natCast, hzero] at hT
      obtain rfl := Option.some.inj hT
      exact absurd (noteIndex_zero .triangle) hnote

/-! ### A folded render, TICK by TICK (R165, R167) -/

theorem runAll_replicate_succ_of_next {k : Nat} {i : Instr} {s t : State} (h : runAll (List.replicate k i) s = .next t) :
    runAll (List.replicate (k + 1) i) s = exec i t := by
  rw [List.replicate_succ', runAll_append, h]
  exact runAll_singleton i t

/-- A render with the folded triangle is in flight, not stopped, and has delivered `k` of its `len` samples. -/
structure FoldedRenderAt (len k : Nat) (s : State) : Prop where
  inv : s.Inv
  run : s.run = .playing
  cancel : s.cancel = false
  folded : s.sMode.getLsbD 1 = false
  nEnd : s.nEnd = len
  n : s.n = k

namespace FoldedRenderAt

variable {len k : Nat} {s p : State}

theorem tick (h : FoldedRenderAt len k s) (hk : k < len) : ∃ t x, exec .tick s = .next t ∧
    t.resp = some ⟨.ok, .sample x⟩ ∧ FoldedRenderAt len (k + 1) t := by
  have hn : s.n < s.nEnd := by rwa [h.n, h.nEnd]
  obtain ⟨d, hd⟩ := h.inv.execTick_delivers h.run h.cancel hn (.inl h.folded)
  exact ⟨_, d.out, hd, rfl, h.inv.afterSample hn d, h.run, h.cancel, h.folded, h.nEnd, congrArg (· + 1) h.n⟩

theorem ticks (h : FoldedRenderAt len 0 p) :
    ∀ k ≤ len, ∃ t, runAll (List.replicate k .tick) p = .next t ∧ FoldedRenderAt len k t
  | 0, _ => ⟨p, rfl, h⟩
  | k + 1, hk => by
    obtain ⟨s, hrun, hs⟩ := ticks h k (Nat.le_of_succ_le hk)
    obtain ⟨t, x, hstep, -, ht⟩ := hs.tick hk
    exact ⟨t, (runAll_replicate_succ_of_next hrun).trans hstep, ht⟩

end FoldedRenderAt

/-- PLAY starts a render at its first sample; it is folded if the live mode is (R163). -/
theorem foldedRenderAt_play {s p : State} (hs : s.Inv) (hmode : s.mode.getLsbD 1 = false) (hp : exec .play s = .next p) :
    FoldedRenderAt (renderLength s.live.len s.tempo.toNat) 0 p := by
  have hinv : p.Inv := exec_command_keeps_inv rfl hs hp
  rw [exec_play] at hp
  cases hp
  exact ⟨hinv, rfl, cancel_and_idle_eq_false hs.cancelPlaying, hmode, rfl, rfl⟩

/-! ### What moves `RUN` (R169) -/

/-- PLAY has one word (R73). -/
theorem eq_playWord_of_decode {cw : CmdWord} (h : decode cw = .ok .play) : cw = 0x2000000000000000#64 :=
  (Option.some.inj (decode_eq_ok_iff_encode.1 h)).symm.trans (by decide)

theorem not_idle_and_playing {r : RunState} (h : r = .idle) (h' : r = .playing) : False := by
  rw [h] at h'; cases h'

/-- No TICK starts a render. -/
theorem execTick_run_of_idle {s t : State} (hr : s.run = .idle) (h : execTick s = .next t) : t.run = .idle := by
  obtain rfl := Host.Outcome.next.inj ((execTick_of_idle hr).symm.trans h)
  exact hr

/-- A TICK that ends a render found it stopped or finished. -/
theorem execTick_ends_render {s t : State} (hr : s.run = .playing) (h : execTick s = .next t) (ht : t.run = .idle) :
    s.cancel = true ∨ s.nEnd ≤ s.n := by
  rcases execTick_cases s with ⟨hidle, -⟩ | ⟨-, ho, -⟩ | ⟨-, -, ⟨wA, wB, wT, wN, g, -, -, -, -, -, e⟩ | ⟨-, e⟩ | ⟨-, -, -, e⟩⟩
  · exact (not_idle_and_playing hidle hr).elim
  · exact State.renderOver_eq_true.1 ho
  · rw [e] at h
    cases h
    exact (not_idle_and_playing ht hr).elim
  · rw [e] at h; cases h
  · rw [e] at h; cases h

end Sys2Proof.Machine

namespace Sys2Proof.Claims

open Sys2Proof.Machine

/-- The datapath of `tickDatapath` satisfies every line of TICK (R165), if the triangle's output, where it has one, is `g`. -/
theorem sampleOf_tickDatapath {s : State} {wA wB wT wN : StepWord} {g : GenOut} (hlen : 0 < s.snap.len)
    (hA : snapWord s.snap .pulseA (stepIndex s.n s.sTempo.toNat s.snap.len) = some wA)
    (hB : snapWord s.snap .pulseB (stepIndex s.n s.sTempo.toNat s.snap.len) = some wB)
    (hT : snapWord s.snap .triangle (stepIndex s.n s.sTempo.toNat s.snap.len) = some wT)
    (hN : snapWord s.snap .noise (stepIndex s.n s.sTempo.toNat s.snap.len) = some wN)
    (hg : triangle s.n (noteIndex .triangle wT) (tickFreq s.sMode (noteIndex .triangle wT)) (triLegacyBit s.sMode) = none ∨
      triangle s.n (noteIndex .triangle wT) (tickFreq s.sMode (noteIndex .triangle wT)) (triLegacyBit s.sMode) = some g) :
    SampleOf s (tickDatapath s wA wB wT wN g) where
  step := stepIndex_of_pos hlen
  note ch := by
    obtain ⟨hi, -⟩ := stepIndex_in_range (n := s.n) (tempo := s.sTempo.toNat) hlen
    rw [snapWord_of_nonneg hi] at hA hB hT hN
    cases ch with
    | pulseA => exact ⟨wA, hA, noteOfWord_noteIndex _ _⟩
    | pulseB => exact ⟨wB, hB, noteOfWord_noteIndex _ _⟩
    | triangle => exact ⟨wT, hT, noteOfWord_noteIndex _ _⟩
    | noise => exact ⟨wN, hN, noteOfWord_noteIndex _ _⟩
  freq ch hch hnote := by
    cases ch with
    | pulseA | pulseB | triangle => exact tickFreq_of_note _ hnote
    | noise => exact absurd rfl hch
  p1 := pulseUnit_eq_ite _ _ _
  p2 := pulseUnit_eq_ite _ _ _
  t hmode := by
    rw [show triLegacyBit s.sMode = false from hmode] at hg
    rcases hg with hnone | hsome
    · obtain ⟨hlegacy, -⟩ := triangle_eq_none_iff.1 hnone
      cases hlegacy
    · exact toV_of_triangle_folded hsome
  tLegacy hmode hk := by
    rw [show triLegacyBit s.sMode = true from hmode] at hg
    rcases hg with hnone | hsome
    · obtain ⟨-, hon, hneg⟩ := triangle_eq_none_iff.1 hnone
      exact absurd (hk hon) (not_le.2 hneg)
    · exact toV_of_triangle_legacy hsome
  nz := ⟨fun h => congrArg GenOut.toV (tickNoise_of_no_note h s.free), fun h => tickNoise_of_note h s.free⟩
  pulseOut := rfl
  tndOut := mixTnd_eq _ _
  mixed := rfl
  y1 := rfl
  y2 := rfl
  y3 := rfl
  out := rfl

/-- Settles O26: the values are those of `tickDatapath`; where the triangle has no output, no line of TICK names its value. -/
theorem tickDeliversOneSample : Obligations.TickDeliversOneSample := by
  intro s hs hr hc hn
  obtain ⟨wA, wB, wT, wN, hA, hB, hT, hN, hnext, hrefused⟩ := execTick_playing hs hr hc hn
  have hsample {g} := sampleOf_tickDatapath (g := g) (hs.steps hn) hA hB hT hN
  cases hg : triangle s.n (noteIndex .triangle wT) (tickFreq s.sMode (noteIndex .triangle wT)) (triLegacyBit s.sMode) with
  | some g =>
    refine ⟨_, hsample (.inr hg), fun ⟨hlegacy, hnote, hf, hk⟩ => ?_, fun _ => ?_⟩
    · have hnone := triangle_eq_none_iff.2 ⟨hlegacy, ⟨hnote, hf⟩, hk⟩
      exact absurd (hg.symm.trans hnone) nofun
    · rw [exec_tick, hnext g hg, tickResult_eq hs.datapathClear]
  | none =>
    obtain ⟨hlegacy, ⟨hnote, hf⟩, hk⟩ := triangle_eq_none_iff.1 hg
    exact ⟨_, hsample (g := .silent) (.inl hg), fun _ => hrefused hg, fun hdefined => (hdefined ⟨hlegacy, hnote, hf, hk⟩).elim⟩

/-- Settles O27: a delivered sample counts `n` and leaves the render in flight. -/
theorem tickCompletesWithoutLegacyTriangle : Obligations.TickCompletesWithoutLegacyTriangle := by
  intro s hs hr hc hn ht
  obtain ⟨d, hd⟩ := hs.execTick_delivers hr hc hn ht
  exact ⟨_, d.out, hd, rfl, rfl, hr, rfl⟩

/-- Settles O30, by induction on the number of TICKs: each keeps the render in flight until `N_END`, where the next one ends it. -/
theorem renderDeliversExactlyItsLength : Obligations.RenderDeliversExactlyItsLength := by
  intro s hs hmode
  have hplay := foldedRenderAt_play hs hmode (exec_play s)
  refine ⟨_, exec_play s, fun k hk => ?_, ?_⟩
  · obtain ⟨u, hrun, hu⟩ := hplay.ticks k (Nat.le_of_lt hk)
    obtain ⟨t, x, hstep, hresp, ht⟩ := hu.tick hk
    exact ⟨t, x, (runAll_replicate_succ_of_next hrun).trans hstep, hresp, ht.run, ht.n⟩
  · obtain ⟨u, hrun, hu⟩ := hplay.ticks _ le_rfl
    have hover : u.renderOver = true := State.renderOver_eq_true.2 (.inr (hu.nEnd.trans hu.n.symm).le)
    refine ⟨(u.setRun .idle).clearCancel.respondEnd, ?_, rfl, rfl, hu.n⟩
    exact (runAll_replicate_succ_of_next hrun).trans (execTick_of_renderOver hu.run hover)

/-- Settles O32: what STOP writes, `CANCEL` of a block that is Playing and the response, PLAY writes too. -/
theorem stopThenPlayIsPlay : Obligations.StopThenPlayIsPlay := by
  refine fun s hs => ⟨?_, _, exec_play s, cancel_and_idle_eq_false hs.cancelPlaying⟩
  show runAll [.stop, .play] s = exec .play s
  cases hr : s.run with
  | playing =>
    rw [runAll_pair_of_next (exec_stop_of_playing hr), exec_play, exec_play]
    simp [hr]
  | idle =>
    rw [runAll_pair_of_next (exec_stop_of_idle hr), exec_play, exec_play]
    rfl

/-- Settles O35: a sample adds `S_TEMPO < 65536` to the numerator, and the divisor is 2880000. -/
theorem stepIndexRisesByAtMostOne : Obligations.StepIndexRisesByAtMostOne := by
  refine fun s hlen => ⟨_, _, exec_stepIdx s, exec_stepIdx _, ?_⟩
  have htempo := s.sTempo.isLt
  have hnext : (s.n + 1) * s.sTempo.toNat = s.n * s.sTempo.toNat + s.sTempo.toNat := Nat.succ_mul _ _
  simp only [stepIndex_of_pos hlen, hnext]
  omega

/-- Of the commands only PLAY starts a render (R20, R169). -/
theorem exec_command_starts_render {i : Instr} {s t : State} (hi : i.isCommand = true) (h : exec i s = .next t)
    (hs : s.run = .idle) (ht : t.run = .playing) : i = .play := by
  obtain ⟨-, -, -, -, -, hwriter, -⟩ := stateWrittenOnlyByItsRow i s t hi h
  rcases hwriter (by simp [hs, ht]) with rfl | rfl
  · rfl
  · exact (not_idle_and_playing (execTick_run_of_idle hs h) ht).elim

/-- Of the commands only TICK ends a render, one that is stopped or finished (R20, R169). -/
theorem exec_command_ends_render {i : Instr} {s t : State} (hi : i.isCommand = true) (h : exec i s = .next t)
    (hs : s.run = .playing) (ht : t.run = .idle) : i = .tick ∧ (s.cancel = true ∨ s.nEnd ≤ s.n) := by
  obtain ⟨-, -, -, -, -, hwriter, -⟩ := stateWrittenOnlyByItsRow i s t hi h
  rcases hwriter (by simp [hs, ht]) with rfl | rfl
  · obtain rfl := Host.Outcome.next.inj ((exec_play s).symm.trans h)
    cases ht
  · exact ⟨rfl, execTick_ends_render hs h ht⟩

/-- Settles O52, by the event the step takes: none and an illegal word leave `RUN`, RESET makes the block Idle, and a command that
moves `RUN` is PLAY or TICK, each of which has one word. -/
theorem runChangesOnlyByTable : Obligations.RunChangesOnlyByTable := by
  intro s t _ h
  rcases step_cases s with ⟨-, e⟩ | ⟨rest, hin, e⟩ | ⟨cw, rest, i, hin, hd, e⟩ | ⟨cw, rest, err, -, -, e⟩ <;> rw [e] at h
  · cases h
    exact ⟨fun hs ht => (not_idle_and_playing hs ht).elim, fun hs ht => (not_idle_and_playing ht hs).elim⟩
  · cases h
    exact ⟨fun _ => nofun, fun _ _ => ⟨rest, .inl hin⟩⟩
  · have hi := decode_isCommand hd
    refine ⟨fun hs ht => ?_, fun hs ht => ?_⟩
    · obtain rfl := exec_command_starts_render hi h hs ht
      exact ⟨rest, eq_playWord_of_decode hd ▸ hin⟩
    · obtain ⟨rfl, hover⟩ := exec_command_ends_render hi h hs ht
      exact ⟨rest, .inr ⟨eq_tickWord_of_decode hd ▸ hin, hover⟩⟩
  · cases h
    exact ⟨fun hs ht => (not_idle_and_playing hs ht).elim, fun hs ht => (not_idle_and_playing ht hs).elim⟩

/-- Settles O22: a volume of 101 to 127 is the range condition of SETVOL. -/
theorem configurationWritesItsRegister : Obligations.ConfigurationWritesItsRegister :=
  ⟨fun _ _ => rfl, fun _ _ => exec_setVol_of_le, fun _ vol h => exec_of_rangeCondition (i := .setVol vol) h, fun _ _ => rfl⟩

/-- Settles O23: after PLAY `CANCEL` is 1 only if it was 1 in an Idle block. -/
theorem playStartsRenderOfLiveState : Obligations.PlayStartsRenderOfLiveState := by
  refine fun s => ⟨_, exec_play s, cancel_and_idle_eq_false, fun hr => ?_, fun hr => ?_⟩
  · exact cancel_and_idle_eq_false fun _ => hr
  · simp [hr]

/-- Settles O24, by the two values of `RUN`. -/
theorem stopRaisesCancel : Obligations.StopRaisesCancel := fun _ => ⟨exec_stop_of_playing, exec_stop_of_idle⟩

/-- Settles O25: the ending branch is taken exactly for `CANCEL = 1` or `n >= N_END`. -/
theorem tickWithoutSampleAnswersEnd : Obligations.TickWithoutSampleAnswersEnd := fun _ =>
  ⟨execTick_of_idle, fun hr hover => execTick_of_renderOver hr (State.renderOver_eq_true.2 hover)⟩

/-- Settles O31: STOP leaves the block Playing with `CANCEL = 1`, and that TICK only lowers both flags. -/
theorem stopThenTickEndsRender : Obligations.StopThenTickEndsRender := by
  intro s hr
  have hover : (s.raiseCancel.answer 0#32).renderOver = true := State.renderOver_eq_true.2 (.inl rfl)
  have hrun := (runAll_pair_of_next (j := .tick) (exec_stop_of_playing hr)).trans (execTick_of_renderOver hr hover)
  exact ⟨_, hrun, rfl, rfl, rfl, rfl, rfl, rfl, rfl⟩

/-- Settles O50: the stage's output is `gain`, which is R166's formula. -/
theorem gainScalesByVolume : Obligations.GainScalesByVolume := exec_gain

end Sys2Proof.Claims
end

section
/-! PROOFS. The error conditions (60_exceptions.md): a command outside R182's table answers OK, or END if it is TICK; so every answer of a
command is one of ERR_RANGE, ERR_SHRINK and no error, and the table says which. -/

namespace Sys2Proof.Machine

open Sys2Proof.Claims

variable {s t : State} {i : Instr}

/-! ### The rows of R182 -/

/-- A SHRINK below zero is answered before any write (R180, R95). -/
theorem exec_of_shrinkCondition (h : shrinkCondition s i) : exec i s = reject s .errShrink := by
  cases i <;> simp only [shrinkCondition] at h
  case shrink cnt => exact exec_shrink_of_lt (by omega)

/-- The two codes belong to different commands (R182). -/
theorem not_shrinkCondition_of_rangeCondition (h : rangeCondition s i) : ¬ shrinkCondition s i := by
  cases i <;> simp only [rangeCondition] at h <;> simp only [shrinkCondition, not_false_eq_true]

/-! ### Commands outside R182's table -/

/-- A command other than TICK that meets no condition of R182 answers OK with a word (R75). -/
theorem exec_answers_ok (hi : i.isCommand = true) (ht : i ≠ .tick) (hr : ¬ rangeCondition s i) (hs : ¬ shrinkCondition s i) :
    ∃ u w, exec i s = .next (State.answer u w) := by
  cases i <;> simp only [Instr.isCommand, Bool.false_eq_true] at hi <;>
    simp only [rangeCondition, shrinkCondition, not_or, Nat.not_le, Nat.not_lt] at hr hs
  case select ch step slot =>
    obtain ⟨m, hm⟩ := Memory.exists_read_of_lt ch hr.1
    exact ⟨_, _, exec_select_of_read hm hr.2⟩
  case isSel ch step slot =>
    obtain ⟨m, hm⟩ := Memory.exists_read_of_lt ch hr.1
    exact ⟨_, _, exec_isSel_of_read hm hr.2⟩
  case noteIdx ch step =>
    obtain ⟨m, hm⟩ := Memory.exists_read_of_lt ch hr
    exact ⟨_, _, exec_noteIdx_of_read hm⟩
  case wrStep ch step mask => exact ⟨_, _, exec_wrStep_of_lt mask hr⟩
  case rdStep ch step =>
    obtain ⟨m, hm⟩ := Memory.exists_read_of_lt ch hr
    exact ⟨_, _, exec_rdStep_of_read hm⟩
  case grow cnt => exact ⟨_, _, exec_grow_of_le hr⟩
  case shrink cnt => exact ⟨_, _, exec_shrink_of_le (by omega)⟩
  case setVol vol => exact ⟨_, _, exec_setVol_of_le hr⟩
  case stop =>
    cases hrun : s.run with
    | playing => exact ⟨_, _, exec_stop_of_playing hrun⟩
    | idle => exact ⟨_, _, exec_stop_of_idle hrun⟩
  case tick => exact absurd rfl ht
  case getLen | newTrack | setTempo | setMode | play => exact ⟨_, _, rfl⟩

/-- A TICK that goes on answers a sample, with OK or END (R165). -/
theorem execTick_resp (h : execTick s = .next t) : ∃ x, t.resp = some ⟨.ok, .sample x⟩ ∨ t.resp = some ⟨.endOfRender, .sample x⟩ := by
  rcases execTick_next_cases h with rfl | rfl | ⟨-, -, d, rfl⟩
  · exact ⟨_, .inr rfl⟩
  · exact ⟨_, .inr rfl⟩
  · exact ⟨_, .inl rfl⟩

/-- A command that meets no condition of R182 answers OK or END. -/
theorem exec_resp_of_no_condition (hi : i.isCommand = true) (hr : ¬ rangeCondition s i) (hs : ¬ shrinkCondition s i)
    (h : exec i s = .next t) : ∃ v, t.resp = some ⟨.ok, v⟩ ∨ t.resp = some ⟨.endOfRender, v⟩ := by
  by_cases ht : i = .tick
  · subst ht
    obtain ⟨x, hx⟩ := execTick_resp h
    exact ⟨_, hx⟩
  · obtain ⟨u, w, e⟩ := exec_answers_ok hi ht hr hs
    obtain rfl := Host.Outcome.next.inj (e.symm.trans h)
    exact ⟨_, .inl rfl⟩

/-- Every answer of a command, by R182's table: ERR_RANGE or ERR_SHRINK at the state as it was, or no error. -/
theorem exec_answer_cases (hi : i.isCommand = true) (h : exec i s = .next t) :
    (rangeCondition s i ∧ ¬ shrinkCondition s i ∧ t = s.respond .errRange (.word 0#32)) ∨
    (¬ rangeCondition s i ∧ shrinkCondition s i ∧ t = s.respond .errShrink (.word 0#32)) ∨
    (¬ rangeCondition s i ∧ ¬ shrinkCondition s i ∧
      ∃ v, t.resp = some ⟨.ok, v⟩ ∨ t.resp = some ⟨.endOfRender, v⟩) := by
  by_cases hr : rangeCondition s i
  · exact .inl ⟨hr, not_shrinkCondition_of_rangeCondition hr, Host.Outcome.next.inj (h.symm.trans (exec_of_rangeCondition hr))⟩
  · by_cases hs : shrinkCondition s i
    · exact .inr (.inl ⟨hr, hs, Host.Outcome.next.inj (h.symm.trans (exec_of_shrinkCondition hs))⟩)
    · exact .inr (.inr ⟨hr, hs, exec_resp_of_no_condition hi hr hs h⟩)

end Sys2Proof.Machine

namespace Sys2Proof.Claims

open Sys2Proof.Machine

/-- Settles O20: in each of the three cases of an answer the status and both conditions are known. -/
theorem errorStatusesExactlyWhen : Obligations.ErrorStatusesExactlyWhen := by
  intro s i hi t h
  rcases exec_answer_cases hi h with ⟨hr, hs, rfl⟩ | ⟨hr, hs, rfl⟩ | ⟨hr, hs, v, e | e⟩
  · simp [hr, hs]
  · simp [hr, hs]
  · simp [hr, hs, e]
  · simp [hr, hs, e]

/-- Settles O21: an answer with one of the three statuses is not OK or END, so it is a rejection at the state as it was. -/
theorem failedOperationChangesNothing : Obligations.FailedOperationChangesNothing := by
  intro s i t e v hi h hresp he
  rcases exec_answer_cases hi h with ⟨-, -, rfl⟩ | ⟨-, -, rfl⟩ | ⟨-, -, w, hok | hend⟩
  · cases hresp; exact ⟨rfl, rfl⟩
  · cases hresp; exact ⟨rfl, rfl⟩
  · cases hok.symm.trans hresp; simp at he
  · cases hend.symm.trans hresp; simp at he

end Sys2Proof.Claims
end

section
/-! PROOFS. Edits during a render (70_reset_and_hazards.md): an edit replaces the live side and answers, and TICK sees neither the live
side nor the last response. -/

namespace Sys2Proof.Machine

open Sys2Proof.Claims

variable {i : Instr} {s u : State}

/-- The edits are twelve of the fifteen commands (R73). -/
theorem isCommand_of_editsLive : ∀ {i}, editsLive i = true → i.isCommand = true
  | .select .., _ | .isSel .., _ | .noteIdx .., _ | .grow _, _ | .shrink _, _ | .getLen, _ | .newTrack, _ | .wrStep .., _
  | .rdStep .., _ | .setTempo _, _ | .setVol _, _ | .setMode _, _ => rfl

/-- An edit writes the live side and the response, and nothing else (R60, R169). -/
theorem exec_edit_eq (hi : editsLive i = true) (h : exec i s = .next u) :
    ∃ live tempo volume mode st v, u = (withLiveSide s live tempo volume mode s.inbox).respond st v := by
  rcases exec_command_cases (isCommand_of_editsLive hi) h with ⟨-, -, st, v, rfl⟩ | ⟨live, -, rfl⟩ | ⟨tempo, -, rfl⟩ |
    ⟨volume, -, -, rfl⟩ | ⟨mode, -, rfl⟩ | ⟨rfl, -⟩ | ⟨rfl, -⟩ | ⟨rfl, -⟩
  · exact ⟨s.live, s.tempo, s.volume, s.mode, st, v, rfl⟩
  · exact ⟨live, s.tempo, s.volume, s.mode, _, _, rfl⟩
  · exact ⟨s.live, tempo, s.volume, s.mode, _, _, rfl⟩
  · exact ⟨s.live, s.tempo, volume, s.mode, _, _, rfl⟩
  · exact ⟨s.live, s.tempo, s.volume, mode, _, _, rfl⟩
  · cases hi -- STOP
  · cases hi -- PLAY
  · cases hi -- TICK

/-- TICK does not read the last response, and each branch that goes on replaces it (R75, R165). -/
theorem execTick_respond (s : State) (st : Status) (v : RespValue) : execTick (s.respond st v) = execTick s := by
  rcases execTick_cases s with ⟨hr, e⟩ | ⟨hr, ho, e⟩ |
    ⟨hr, ho, ⟨wA, wB, wT, wN, g, hA, hB, hT, hN, hg, e⟩ | ⟨hi, e⟩ | ⟨wT, hT, hg, e⟩⟩ <;> rw [e]
  · exact execTick_of_idle hr
  · exact execTick_of_renderOver hr ho
  · exact execTick_of_sample_next hr ho hA hB hT hN hg
  · exact execTick_of_sample_fault hr ho hi
  · exact execTick_of_sample_refused hr ho hT hg

/-- A TICK after an edit is the TICK alone, with the live side as the edit left it (R203). -/
theorem runAll_edit_tick (s : State) (hi : editsLive i = true) : ∃ live tempo volume mode, runAll [i, .tick] s =
    mapNext (fun t => withLiveSide t live tempo volume mode s.inbox) (exec .tick s) := by
  have htick : i ≠ .tick := by rintro rfl; cases hi
  obtain ⟨u, hu⟩ := exec_command_goes_on s (isCommand_of_editsLive hi) htick
  obtain ⟨live, tempo, volume, mode, st, v, rfl⟩ := exec_edit_eq hi hu
  refine ⟨live, tempo, volume, mode, ?_⟩
  calc runAll [i, .tick] s
    _ = execTick ((withLiveSide s live tempo volume mode s.inbox).respond st v) := runAll_pair_of_next hu
    _ = execTick (withLiveSide s live tempo volume mode s.inbox) := execTick_respond _ st v
    _ = _ := execTick_withLiveSide s live tempo volume mode s.inbox

end Sys2Proof.Machine

namespace Sys2Proof.Claims

open Sys2Proof.Machine

/-- Settles O60: the two runs of TICK end in states that differ in the live side only. -/
theorem editsDuringRenderAreNotHeard : Obligations.EditsDuringRenderAreNotHeard := by
  intro s i t hi ht
  obtain ⟨live, tempo, volume, mode, hrun⟩ := runAll_edit_tick s hi
  rw [ht] at hrun
  exact ⟨withLiveSide t live tempo volume mode s.inbox, hrun, rfl, rfl, rfl, rfl, rfl, rfl, rfl, rfl, rfl, rfl, rfl, rfl⟩

end Sys2Proof.Claims
end
